-- ==== Sys2Proof/Word.lean ====
section
/-! DEFINITION. The word types of the engine and the two readings of a bit pattern
(spec/00_scope.md R7, R8). -/

namespace Sys2Proof

/-- A bus byte (R7: "bus bytes are 8 bits"). -/
abbrev Byte := BitVec 8

/-- A 32-bit result or response word (R7). -/
abbrev Word := BitVec 32

end Sys2Proof
end

