-- ==== Sys2Proof/Config.lean ====
section
/-! DEFINITION. The implementation parameters of spec/00_scope.md R6, the bus event alphabet of
spec/20_memory.md R48, and the one free value of the model, the device oracle of R58. -/

namespace Sys2Proof

/-- The observable bus events (R48): `Sel(0)` / `Sel(1)`, one successful `transferByte`, one failed
`transferByte`, and a call of the delay capability. -/
inductive BusEvent where
  /-- `Sel(0)` (`high = false`, asserted) or `Sel(1)` (`high = true`, deasserted). -/
  | sel (high : Bool)
  /-- `Xfer(tx, rx)`. -/
  | xfer (tx rx : Byte)
  /-- `XferFail(tx)`. -/
  | xferFail (tx : Byte)
  /-- `Delay(ms)`. -/
  | delay (ms : Nat)
  deriving DecidableEq, Repr

/-- The OPEN parameters of R6: arguments of the model, fixed for one machine. FIXED parameters are
the constants below. -/
structure Config where
  /-- `A_RESET` -/
  aReset : Byte
  /-- `V_RESET` -/
  vReset : Byte
  /-- `A_STATUS` -/
  aStatus : Byte
  /-- `A_CAL1` -/
  aCal1 : Byte
  /-- `A_CAL2` -/
  aCal2 : Byte
  /-- `A_CTRL_HUM` -/
  aCtrlHum : Byte
  /-- `A_CTRL_MEAS` -/
  aCtrlMeas : Byte
  /-- `A_DATA` -/
  aData : Byte
  /-- `OSRS_H` -/
  osrsH : BitVec 3
  /-- `OSRS_T` -/
  osrsT : BitVec 3
  /-- `OSRS_P` -/
  osrsP : BitVec 3
  /-- `POLL_LIMIT`: a positive natural number, or `none` for `inf`. -/
  pollLimit : Option Nat
  /-- `T_CONV_MS`: the host's wait between `FORCE` and the first `GET_*`; no rule of the engine reads it
  (R6 "host-side only", spec/41_measurement_controller.md R158). -/
  tConvMs : Nat
  deriving DecidableEq, Repr

namespace Config

/-- The default column of R6, the values the spec's test vectors use. DESIGN CHOICE (log 3): `State.reset` holds
these; every statement about a step holds for every configuration. -/
def default : Config where
  aReset := 0xE0#8
  vReset := 0xB6#8
  aStatus := 0xF3#8
  aCal1 := 0x88#8
  aCal2 := 0xE1#8
  aCtrlHum := 0xF2#8
  aCtrlMeas := 0xF4#8
  aData := 0xF7#8
  osrsH := 0b001#3
  osrsT := 0b001#3
  osrsP := 0b001#3
  pollLimit := none
  tConvMs := 10

/-- `CAL1_LEN` (R6, FIXED; conflict C1). -/
abbrev cal1Len : Nat := 26

/-- `CAL2_LEN` (R6, FIXED). -/
abbrev cal2Len : Nat := 8

/-- `DATA_LEN` (R6, FIXED). -/
abbrev dataLen : Nat := 8

/-- `MODE_SLEEP` (R6, FIXED). -/
abbrev modeSleep : BitVec 2 := 0b00#2

/-- `MODE_FORCED` (R6, FIXED). -/
abbrev modeForced : BitVec 2 := 0b01#2

/-- `POLL_INTERVAL_MS` (R6, FIXED). -/
abbrev pollIntervalMs : Nat := 2

/-- `DUMMY` (R6, FIXED; spec/20_memory.md R46). -/
abbrev dummy : Byte := 0x00#8

/-- FREE VALUE (log 4): what the Bus Transport answers to sending a byte, `(ok, rx)`, given the whole event history before
it. R58: "a model draws it from an oracle that may see the whole event history, and assumes nothing of it";
R43 for the success flag. -/
opaque oracle : List BusEvent → Byte → Bool × Byte

end Config

end Sys2Proof
end

