-- ==== Sys2Proof/Syntax.lean ====
section
/-! DEFINITION. The operations of the engine: one constructor of `Instr` per row of spec/opcode_table.json
(spec/00_scope.md R2, spec/30_encoding.md R70), the sequencer phases `SEQ` ranges over (R88), and the
encoded words of the three formats. -/

namespace Sys2Proof

/-- The sixteen values of `SEQ` (spec/30_encoding.md R88). -/
inductive Phase where
  | idle
  | resetWr
  | pollRd
  | pollWait
  | cal1Rd
  | cal2Rd
  | calDecode
  | cfgHumWr
  | cfgMeasWr
  | forceRd
  | forceWr
  | dataRd
  | rawDecode
  | compT
  | compP
  | compH
  deriving DecidableEq, Repr

/-- One constructor per row of the opcode table. -/
inductive Instr where
  -- format H, host commands (R71, R72)
  | init
  | force
  | getT
  | getP
  | getH
  -- format H, reserved codes (R73)
  | reserved000
  | reserved011
  | reserved111
  -- format A, generic transactions (spec/20_memory.md R49, R50): `a` is bits 6 to 0 of the device address
  | busRead (a : BitVec 7) (n : Nat)
  | busWrite (a : BitVec 7) (v : Byte)
  -- format A, the eight transactions of R75; a write carries the payload byte of R76, R78, R79 or R80
  | busWrReset (v : Byte)
  | busRdStatus
  | busRdCal1
  | busRdCal2
  | busWrCtrlHum (v : Byte)
  | busWrCtrlMeas (v : Byte)
  | busRdCtrlMeas
  | busRdData
  -- format U, sequencer phases (R88)
  | seqIdle
  | seqResetWr
  | seqPollRd
  | seqPollWait
  | seqCal1Rd
  | seqCal2Rd
  | seqCalDecode
  | seqCfgHumWr
  | seqCfgMeasWr
  | seqForceRd
  | seqForceWr
  | seqDataRd
  | seqRawDecode
  | seqCompT
  | seqCompP
  | seqCompH
  deriving DecidableEq, Repr

/-- A transaction of spec/20_memory.md R44, R46, R47: an address byte and one or more data bytes, all clocked in by a read, exactly one
sent by a write. `a` is bits 6 to 0 of the device address (R74). There is no transaction that has to be refused (R94). -/
inductive Transaction where
  /-- a read of `more + 1` registers -/
  | read (a : BitVec 7) (more : Nat)
  /-- a write of `v` -/
  | write (a : BitVec 7) (v : Byte)
  deriving DecidableEq, Repr

/-- An encoded operation (R70). A format A operation is the list of bytes the engine sends between `Sel(0)`
and `Sel(1)`: the address byte, then the data bytes (R44, R74). -/
inductive Code where
  /-- format H: the 3-bit command code on the command port -/
  | command (c : BitVec 3)
  /-- format A: the bytes sent in one transaction -/
  | frame (sent : List Byte)
  /-- format U: the 4-bit phase code in `SEQ` -/
  | phase (c : BitVec 4)
  deriving DecidableEq, Repr

/-- Why bytes are no transaction, and so no code of format A at all. Formats H and U have no such code (R73, R94), and no transaction
is refused: the decoder takes every address byte with every number of data bytes (log 8). -/
inductive DecodeError where
  /-- a frame with no byte at all: R44 asks for an address-byte exchange -/
  | emptyFrame
  /-- a frame with an address byte only: R44 asks for "one or more data-byte exchanges" -/
  | noDataByte
  /-- a read frame that sends another byte than `DUMMY` while it clocks data in (R46) -/
  | readSendsData
  /-- a write frame with more than one data byte (R47) -/
  | writeLength
  deriving DecidableEq, Repr

end Sys2Proof
end

