-- ==== Sys2Proof/Machine/Operands.lean ====
section
/-! DEFINITION. Every operand form of the engine: the address byte and the payload bytes of format A
(spec/30_encoding.md R74 to R80), the assembly of coefficients and raw counts from buffered bytes (R83 to R87),
and the arithmetic primitives of spec/00_scope.md R8. -/

namespace Sys2Proof.Machine

/-! ### Format A: address byte and payloads -/

/-- Bits 6 to 0 of a device address, the part that travels on the bus (R74). -/
def wireAddr (a : Byte) : BitVec 7 := a.extractLsb' 0 7

/-- `rw || a[6:0]`: bit 7 is 1 for a read and 0 for a write (R74, R45). -/
def addressByte (read : Bool) (a : BitVec 7) : Byte := BitVec.ofBool read ++ a

/-- The bytes a read transaction of `n` registers sends: the address byte, then `n` times `DUMMY` (R46, R49). -/
def readFrame (a : BitVec 7) (n : Nat) : List Byte :=
  addressByte true a :: List.replicate n Config.dummy

/-- The bytes a write transaction sends: the address byte, then the one value to store (R47, R50). -/
def writeFrame (a : BitVec 7) (v : Byte) : List Byte := [addressByte false a, v]

/-- The bytes a transaction sends between `Sel(0)` and `Sel(1)` (R44). -/
def sentBytes : Transaction → List Byte
  | .read a more => readFrame a (more + 1)
  | .write a v => writeFrame a v

/-- The humidity control byte: `0b00000 || OSRS_H` (R78). -/
def humByte (cfg : Config) : Byte := 0b00000#5 ++ cfg.osrsH

/-- The mode control byte `INIT` writes: `OSRS_T || OSRS_P || MODE_SLEEP` (R79). -/
def sleepByte (cfg : Config) : Byte := cfg.osrsT ++ cfg.osrsP ++ Config.modeSleep

/-- The mode control byte `FORCE` writes back: `MREG[7:2] || MODE_FORCED` (R80). -/
def forcedByte (m : Byte) : Byte := m.extractLsb' 2 6 ++ Config.modeForced

/-- The wire addresses and numbers of data bytes of the five named reads (R75). -/
def readKeys (cfg : Config) : List (BitVec 7 × Nat) :=
  [(wireAddr cfg.aStatus, 1), (wireAddr cfg.aCal1, Config.cal1Len), (wireAddr cfg.aCal2, Config.cal2Len),
   (wireAddr cfg.aCtrlMeas, 1), (wireAddr cfg.aData, Config.dataLen)]

/-- The wire addresses of the three named writes (R75). -/
def writeAddrs (cfg : Config) : List (BitVec 7) :=
  [wireAddr cfg.aReset, wireAddr cfg.aCtrlHum, wireAddr cfg.aCtrlMeas]

/-! ### Buffers and the values assembled from them -/

/-- The first `n` bytes of a list as an `n`-byte buffer (R29). A complete read delivers exactly `n` bytes, so nothing is
cut and nothing is filled in then. -/
def toBuffer (n : Nat) (bytes : List Byte) : Vector Byte n :=
  ⟨⟨(bytes ++ List.replicate n 0#8).take n⟩, by simp⟩

/-- A little-endian pair: `p = buf[k+1] || buf[k]` (R83, R52). -/
def pair (lo hi : Byte) : BitVec 16 := hi ++ lo

/-- `sext_12` of a 12-bit pattern into an `s16` (R84). -/
def sext12 (p : BitVec 12) : BitVec 16 := p.signExtend 16

/-- The `H4` pattern: `CALBUF2[3] || CALBUF2[4][3:0]` (R84). -/
def h4Pattern (b3 b4 : Byte) : BitVec 12 := b3 ++ b4.extractLsb' 0 4

/-- The `H5` pattern: `CALBUF2[5] || CALBUF2[4][7:4]` (R84). -/
def h5Pattern (b5 b4 : Byte) : BitVec 12 := b5 ++ b4.extractLsb' 4 4

/-- A 20-bit count: `msb || lsb || xlsb[7:4]` (R86). -/
def count20 (msb lsb xlsb : Byte) : BitVec 20 := msb ++ lsb ++ xlsb.extractLsb' 4 4

/-- The humidity count: `DATABUF[6] || DATABUF[7]` (R87). -/
def count16 (msb lsb : Byte) : BitVec 16 := msb ++ lsb

/-! ### Arithmetic primitives (spec/00_scope.md R8) -/

/-- `w32(x)`: the `s32` congruent to `x` modulo 2^32. -/
def w32 (x : Int) : Int := Int.bmod x (2 ^ 32)

/-- `w64(x)`: the `s64` congruent to `x` modulo 2^64. -/
def w64 (x : Int) : Int := Int.bmod x (2 ^ 64)

/-- `asr(x, n) = floor(x / 2^n)`, toward minus infinity (spec/42_compensation_engine.md R173). -/
def asr (x : Int) (n : Nat) : Int := x.fdiv (2 ^ n)

/-- `lsr(x, n) = floor(x / 2^n)` on an unsigned value. -/
def lsr (x : Nat) (n : Nat) : Nat := x / 2 ^ n

/-- `shl32(x, n) = w32(x * 2^n)`. -/
def shl32 (x : Int) (n : Nat) : Int := w32 (x * 2 ^ n)

/-- `shl64(x, n) = w64(x * 2^n)`. -/
def shl64 (x : Int) (n : Nat) : Int := w64 (x * 2 ^ n)

/-- `sdiv64(a, b)`: truncation toward zero, then `w64` (spec/42_compensation_engine.md R174). The only use has `b ≠ 0`. -/
def sdiv64 (a b : Int) : Int := w64 (Int.tdiv a b)

/-- `clamp(x, lo, hi)`. -/
def clamp (x lo hi : Int) : Int := if x < lo then lo else if x > hi then hi else x

end Sys2Proof.Machine
end

