-- ==== Sys2Proof/WellFormed.lean ====
section
/-! DEFINITION. The operations the engine can issue, as a check on `Instr`: formats H and U have no operand, so only the
transactions of format A have anything to check. And the check of a configuration. -/

namespace Sys2Proof

open Machine

/-- A configuration the model takes (spec/20_memory.md R41: `a + n - 1 <= 0xFF` for each of the three bursts; spec/00_scope.md R6:
`POLL_LIMIT` is "a positive natural number or `inf`"). -/
def Config.ok (cfg : Config) : Bool :=
  cfg.aCal1.toNat + cal1Len - 1 ≤ 0xFF && cfg.aCal2.toNat + cal2Len - 1 ≤ 0xFF &&
    cfg.aData.toNat + dataLen - 1 ≤ 0xFF && cfg.pollLimit != some 0

/-- No two named reads have both the same address byte and the same length, and no two named writes the same address byte, so that
the bytes sent name the transaction (spec/30_encoding.md R75; true of the default column). -/
def Config.addrsDistinct (cfg : Config) : Bool :=
  decide (readKeys cfg).Nodup && decide (writeAddrs cfg).Nodup

/-- Whether an operation is one the engine issues in this configuration.

* `BUS.READ a n`: at least one data byte (spec/20_memory.md R49 "for `1 <= n`"), and not a named read, which has its own row: the named
  read's address with another length is a generic read.
* `BUS.WRITE a v`: not the address of a named write.
* The named writes carry the payload of spec/30_encoding.md R76, R78, and R79 or R80 ("The engine only ever writes 0b00 and 0b01"
  into the mode bits). -/
def wellFormed (cfg : Config) : Instr → Bool
  | .busRead a n => 1 ≤ n && !(readKeys cfg).contains (a, n)
  | .busWrite a _ => !(writeAddrs cfg).contains a
  | .busWrReset v => v == cfg.vReset
  | .busWrCtrlHum v => v == humByte cfg
  | .busWrCtrlMeas v => v == sleepByte cfg || v.extractLsb' 0 2 == Config.modeForced
  | .init | .force | .getT | .getP | .getH => true
  | .reserved000 | .reserved011 | .reserved111 => true
  | .busRdStatus | .busRdCal1 | .busRdCal2 | .busRdCtrlMeas | .busRdData => true
  | .seqIdle | .seqResetWr | .seqPollRd | .seqPollWait | .seqCal1Rd | .seqCal2Rd | .seqCalDecode | .seqCfgHumWr => true
  | .seqCfgMeasWr | .seqForceRd | .seqForceWr | .seqDataRd | .seqRawDecode | .seqCompT | .seqCompP | .seqCompH => true

end Sys2Proof
end

