-- ==== Sys2Proof/Decode.lean ====
section
/-! DEFINITION. Decoding the three formats of spec/30_encoding.md, total on any code and rejecting by name, and after it the
encoder, written from the same tables (R72, R73, R75, R88). -/

namespace Sys2Proof

open Machine

/-! ### Format U: phase codes (R88) -/

/-- The 4-bit code of a phase (R88). -/
def Phase.code : Phase → BitVec 4
  | .idle => 0x0#4
  | .resetWr => 0x1#4
  | .pollRd => 0x2#4
  | .pollWait => 0x3#4
  | .cal1Rd => 0x4#4
  | .cal2Rd => 0x5#4
  | .calDecode => 0x6#4
  | .cfgHumWr => 0x7#4
  | .cfgMeasWr => 0x8#4
  | .forceRd => 0x9#4
  | .forceWr => 0xA#4
  | .dataRd => 0xB#4
  | .rawDecode => 0xC#4
  | .compT => 0xD#4
  | .compP => 0xE#4
  | .compH => 0xF#4

/-- The phase with a 4-bit code: all sixteen are used (R94). -/
def Phase.ofCode (c : BitVec 4) : Phase :=
  match c.toNat with
  | 0x0 => .idle
  | 0x1 => .resetWr
  | 0x2 => .pollRd
  | 0x3 => .pollWait
  | 0x4 => .cal1Rd
  | 0x5 => .cal2Rd
  | 0x6 => .calDecode
  | 0x7 => .cfgHumWr
  | 0x8 => .cfgMeasWr
  | 0x9 => .forceRd
  | 0xA => .forceWr
  | 0xB => .dataRd
  | 0xC => .rawDecode
  | 0xD => .compT
  | 0xE => .compP
  | _ => .compH

/-- The micro-operation of a phase (R88). -/
def decodePhase (c : BitVec 4) : Instr :=
  match Phase.ofCode c with
  | .idle => .seqIdle
  | .resetWr => .seqResetWr
  | .pollRd => .seqPollRd
  | .pollWait => .seqPollWait
  | .cal1Rd => .seqCal1Rd
  | .cal2Rd => .seqCal2Rd
  | .calDecode => .seqCalDecode
  | .cfgHumWr => .seqCfgHumWr
  | .cfgMeasWr => .seqCfgMeasWr
  | .forceRd => .seqForceRd
  | .forceWr => .seqForceWr
  | .dataRd => .seqDataRd
  | .rawDecode => .seqRawDecode
  | .compT => .seqCompT
  | .compP => .seqCompP
  | .compH => .seqCompH

/-! ### Format H: command codes (R72, R73) -/

/-- The operation of a 3-bit command code; the reserved codes are operations too, answered `Refused` (R73). -/
def decodeCommand (c : BitVec 3) : Instr :=
  match c with
  | 0b000#3 => .reserved000
  | 0b001#3 => .init
  | 0b010#3 => .force
  | 0b011#3 => .reserved011
  | 0b100#3 => .getT
  | 0b101#3 => .getP
  | 0b110#3 => .getH
  | 0b111#3 => .reserved111

/-! ### Format A: transactions (R74, R75) -/

/-- The named reads of R75: wire address, number of data bytes, operation. -/
def namedReads (cfg : Config) : List (BitVec 7 × Nat × Instr) :=
  [(wireAddr cfg.aStatus, 1, .busRdStatus),
   (wireAddr cfg.aCal1, Config.cal1Len, .busRdCal1),
   (wireAddr cfg.aCal2, Config.cal2Len, .busRdCal2),
   (wireAddr cfg.aCtrlMeas, 1, .busRdCtrlMeas),
   (wireAddr cfg.aData, Config.dataLen, .busRdData)]

/-- A read of `n` bytes at wire address `a`: the first named read with that address and that length (log 8), else the generic read
of spec/20_memory.md R49, which every other address and length is. -/
def decodeRead (cfg : Config) (a : BitVec 7) (n : Nat) : Instr :=
  match (namedReads cfg).find? (fun r => r.1 == a && r.2.1 == n) with
  | some r => r.2.2
  | none => .busRead a n

/-- A write of `v` at wire address `a`: the first named write with that address (log 8), else the generic write. -/
def decodeWrite (cfg : Config) (a : BitVec 7) (v : Byte) : Instr :=
  if a = wireAddr cfg.aReset then .busWrReset v
  else if a = wireAddr cfg.aCtrlHum then .busWrCtrlHum v
  else if a = wireAddr cfg.aCtrlMeas then .busWrCtrlMeas v
  else .busWrite a v

/-- The operation a transaction is: total, as format A "has nothing to refuse" (R94). -/
def decodeTransaction (cfg : Config) : Transaction → Instr
  | .read a more => decodeRead cfg a (more + 1)
  | .write a v => decodeWrite cfg a v

/-- The transaction that sends these bytes: bit 7 of the first one is the direction, its other bits the wire address (R74). Bytes that no
transaction of spec/20_memory.md R44, R46, R47 sends are refused by name. -/
def transactionOf : List Byte → Except DecodeError Transaction
  | [] => .error .emptyFrame
  | [_] => .error .noDataByte
  | b :: d :: ds =>
    if b.msb then
      if (d :: ds).all (· == Config.dummy) then .ok (.read (wireAddr b) ds.length) else .error .readSendsData
    else
      match ds with
      | [] => .ok (.write (wireAddr b) d)
      | _ :: _ => .error .writeLength

/-- The operation that sends these bytes. -/
def decodeFrame (cfg : Config) (sent : List Byte) : Except DecodeError Instr :=
  match transactionOf sent with
  | .ok tr => .ok (decodeTransaction cfg tr)
  | .error why => .error why

/-- The decoder: total, and only bytes that are no transaction are refused. -/
def decode (cfg : Config) : Code → Except DecodeError Instr
  | .command c => .ok (decodeCommand c)
  | .phase c => .ok (decodePhase c)
  | .frame sent => decodeFrame cfg sent

/-! ### The encoder -/

/-- The code of an operation (R72, R73, R75, R88). -/
def encode (cfg : Config) : Instr → Code
  | .reserved000 => .command 0b000#3
  | .init => .command 0b001#3
  | .force => .command 0b010#3
  | .reserved011 => .command 0b011#3
  | .getT => .command 0b100#3
  | .getP => .command 0b101#3
  | .getH => .command 0b110#3
  | .reserved111 => .command 0b111#3
  | .busRead a n => .frame (readFrame a n)
  | .busWrite a v => .frame (writeFrame a v)
  | .busWrReset v => .frame (writeFrame (wireAddr cfg.aReset) v)
  | .busRdStatus => .frame (readFrame (wireAddr cfg.aStatus) 1)
  | .busRdCal1 => .frame (readFrame (wireAddr cfg.aCal1) Config.cal1Len)
  | .busRdCal2 => .frame (readFrame (wireAddr cfg.aCal2) Config.cal2Len)
  | .busWrCtrlHum v => .frame (writeFrame (wireAddr cfg.aCtrlHum) v)
  | .busWrCtrlMeas v => .frame (writeFrame (wireAddr cfg.aCtrlMeas) v)
  | .busRdCtrlMeas => .frame (readFrame (wireAddr cfg.aCtrlMeas) 1)
  | .busRdData => .frame (readFrame (wireAddr cfg.aData) Config.dataLen)
  | .seqIdle => .phase 0x0#4
  | .seqResetWr => .phase 0x1#4
  | .seqPollRd => .phase 0x2#4
  | .seqPollWait => .phase 0x3#4
  | .seqCal1Rd => .phase 0x4#4
  | .seqCal2Rd => .phase 0x5#4
  | .seqCalDecode => .phase 0x6#4
  | .seqCfgHumWr => .phase 0x7#4
  | .seqCfgMeasWr => .phase 0x8#4
  | .seqForceRd => .phase 0x9#4
  | .seqForceWr => .phase 0xA#4
  | .seqDataRd => .phase 0xB#4
  | .seqRawDecode => .phase 0xC#4
  | .seqCompT => .phase 0xD#4
  | .seqCompP => .phase 0xE#4
  | .seqCompH => .phase 0xF#4

/-! ### Words as spec/opcode_table.json numbers them -/

/-- How many data bytes a transaction with this address byte has when the table gives its row no bits for them: its own
number where it is named (R75), one otherwise (the fewest R49 and R50 allow). -/
def operandBytes (cfg : Config) (b : Byte) : Nat :=
  if b.msb then
    match (namedReads cfg).find? (·.1 == wireAddr b) with
    | some (_, k, _) => k
    | none => 1
  else 1

/-- The code that a table word of `nbits` bits stands for (log 9). Rows of format H have 3 bits, of format U 4, of format A 8; counted
in whole bytes all three are 8, and then a value below 8 is read as a command code, one from 8 to 15 as a phase code, any
other as an address byte. The table's rows of format A describe the address byte alone (the "data_bytes" the table's reader
made into a bit field is the number of data bytes of R75), so the bits above bit 7 are no bits of it; the operand bytes are 0. -/
def codeOfTableWord (cfg : Config) (nbits w : Nat) : Code :=
  if nbits = 3 then .command (BitVec.ofNat 3 w)
  else if nbits = 4 then .phase (BitVec.ofNat 4 w)
  else if nbits ≤ 8 && w < 8 then .command (BitVec.ofNat 3 w)
  else if nbits ≤ 8 && w < 16 then .phase (BitVec.ofNat 4 w)
  else
    let b := BitVec.ofNat 8 w
    .frame (b :: List.replicate (operandBytes cfg b) 0x00#8)

/-- The instruction the decoder reads from a table word, in the default configuration (the table's "A.default" rows). -/
def decodeTableWord (nbits w : Nat) : Option Instr :=
  match decode Config.default (codeOfTableWord Config.default nbits w) with
  | .ok i => some i
  | .error _ => none

end Sys2Proof
end

