-- ==== Sys2Proof/Machine/State.lean ====
section
/-! DEFINITION. The machine's state: the engine's registers (spec/10_state.md R10), the parameters it runs with
(spec/00_scope.md R6), and the two agents around it, the host and the device oracle (spec/60_exceptions.md R230), as plain
data. And the state right after reset (spec/10_state.md R35, spec/70_reset_and_hazards.md R251). -/

namespace Sys2Proof.Machine

/-- The controller state `SSTATE` (R21); the three patterns never produced are not in the type (log 18). -/
inductive SState where
  | reset
  | idle
  | measuring
  | dataReady
  | failed
  deriving DecidableEq, Repr

/-- The four synchronous errors (spec/60_exceptions.md R210). They end a command with a response; none of them is a `Fault`. -/
inductive Error where
  | transportFailure
  | initTimeout
  | notCalibrated
  | refused
  deriving DecidableEq, Repr

/-- The status of a response: `OK` or an error (spec/30_encoding.md R90). -/
inductive Status where
  | ok
  | error (e : Error)
  deriving DecidableEq, Repr

/-- The response to a command: `(status[2:0], data[31:0])` (spec/30_encoding.md R89). -/
structure Response where
  status : Status
  data : Word
  deriving DecidableEq, Repr

/-- What comes of one byte exchange. The Bus Transport answers `(ok, rx)` (spec/20_memory.md R43) or never returns
(spec/41_measurement_controller.md R162); and as the reset input can be asserted at any point of a transaction
(spec/70_reset_and_hazards.md R250), `rst` comes before the exchange completes or right after it (log 5). -/
inductive Answer where
  /-- `ok = 1`: the byte received -/
  | ok (rx : Byte)
  /-- `ok = 0` -/
  | fail
  /-- `rst` is asserted before the exchange completes -/
  | rst
  /-- `ok = 1`, then `rst` is asserted before the next operation on the bus, be it an exchange or the closing `Sel(1)` -/
  | okRst (rx : Byte)
  /-- `ok = 0`, then `rst` is asserted before the closing `Sel(1)` -/
  | failRst
  /-- `transferByte` never returns (log 15) -/
  | hang
  deriving DecidableEq, Repr

/-- The answers with which `rst` comes (spec/70_reset_and_hazards.md R250). -/
def Answer.isReset : Answer → Bool
  | .rst | .okRst _ | .failRst => true
  | .ok _ | .fail | .hang => false

/-- The coefficient file `CAL` of 18 registers (R19). Whether a register is read signed or unsigned is its use's to say. -/
structure Cal where
  t1 : BitVec 16
  t2 : BitVec 16
  t3 : BitVec 16
  p1 : BitVec 16
  p2 : BitVec 16
  p3 : BitVec 16
  p4 : BitVec 16
  p5 : BitVec 16
  p6 : BitVec 16
  p7 : BitVec 16
  p8 : BitVec 16
  p9 : BitVec 16
  h1 : BitVec 8
  h2 : BitVec 16
  h3 : BitVec 8
  h4 : BitVec 16
  h5 : BitVec 16
  h6 : BitVec 8
  deriving DecidableEq, Repr

end Sys2Proof.Machine

namespace Sys2Proof.Machine

/-- The state of the machine. The first part is R10's list; `cfg` holds the parameters, which no step changes; the last part is the
host, the oracle's script and the record of what both observe. -/
structure State where
  /-- The parameters of spec/00_scope.md R6. Not engine state (R10): they stand here because `exec` has no other argument (log 3). -/
  cfg : Config
  /-- `RAW_P`, u20 (R11) -/
  rawP : BitVec 20
  /-- `RAW_T`, u20 (R12) -/
  rawT : BitVec 20
  /-- `RAW_H`, u16 (R13) -/
  rawH : BitVec 16
  /-- `TFINE`, s32 (R14) -/
  tfine : Word
  /-- `OUT_T`, s32 (R15) -/
  outT : Word
  /-- `OUT_P`, u32, Q24.8 (R16) -/
  outP : Word
  /-- `OUT_H`, u32, Q22.10 (R17) -/
  outH : Word
  /-- `CAL` (R19) -/
  cal : Cal
  /-- `SSTATE` (R21) -/
  sstate : SState
  /-- `ERRLOG` (R24) -/
  errlog : BitVec 4
  /-- `SEQ` (R25), the program counter of this hardware -/
  seq : Phase
  /-- `CMDREG` (R26) -/
  cmdreg : BitVec 3
  /-- `POLLCNT` (R27), unbounded -/
  pollcnt : Nat
  /-- `MREG` (R28) -/
  mreg : Byte
  /-- `CALBUF1` (R29) -/
  calbuf1 : Vector Byte 26
  /-- `CALBUF2` (R29) -/
  calbuf2 : Vector Byte 8
  /-- `DATABUF` (R29) -/
  databuf : Vector Byte 8
  /-- `CSN` (R30): `true` is 1, deasserted -/
  csn : Bool
  /-- The event history of spec/20_memory.md R48, oldest first. The engine never reads it; the oracle may (R58). -/
  hist : List BusEvent
  /-- The responses given, oldest first (R89; R268: the observable behaviour, with `hist`). -/
  responses : List Response
  /-- The commands the host will present, the next one first (R96; log 6). -/
  cmds : List (BitVec 3)
  /-- The answers scripted for the next byte exchanges; past its end `Config.oracle` answers (R58; log 4). -/
  answers : List Answer
  /-- Whether the next calls of the delay capability return; past its end they do (spec/60_exceptions.md R232,
  spec/41_measurement_controller.md R162; log 15). -/
  delays : List Bool
  /-- The reset input `rst`: `true` while asserted (spec/70_reset_and_hazards.md R250; log 5). -/
  rst : Bool
  /-- The engine hangs in a call of `transferByte` or `Delay` that never returns, in the phase that called it
  (spec/41_measurement_controller.md R162; log 15). -/
  hung : Bool
  /-- THE MODEL'S OWN (log 7): a transaction placed from outside for the next step to run. No step places one. -/
  busReq : Option Transaction
  /-- THE MODEL'S OWN (log 7): the value of the last transaction run from `busReq` (the bytes of a read; none of a write), `none` if
  it failed or there was none. -/
  busOut : Option (List Byte)
  deriving DecidableEq, Repr

/-- What stops the machine: nothing. The engine has no trap, its errors are responses (spec/60_exceptions.md R210, R218), and a call that
never returns is a state (`State.hung`), from which `rst` still resets. So there is no constructor. -/
inductive Fault where
  deriving DecidableEq, Repr

/-- What the model declines to run. -/
inductive Refusal where
  /-- Raised by `exec` for an instruction that has no meaning yet (none is left). Safe. -/
  | notModelled (mnemonic : String)
  /-- Raised by `step` in a configuration whose bursts would run past 0xFF or whose `POLL_LIMIT` is 0: spec/20_memory.md R41 "refuses a
  configuration that breaks it". Safe: the spec gives such a configuration no behaviour. -/
  | configuration
  /-- Raised by `BUS.READ` of zero bytes: spec/20_memory.md R49 defines `BusRead(a, n)` "for `1 <= n`" only, and the decoder never gives
  one. Safe. -/
  | emptyRead
  deriving DecidableEq, Repr

/-- All coefficients zero, the value the model names for `CAL` at reset. DESIGN CHOICE (log 2): the spec gives none (R18, R35). -/
def Cal.reset : Cal where
  t1 := 0
  t2 := 0
  t3 := 0
  p1 := 0
  p2 := 0
  p3 := 0
  p4 := 0
  p5 := 0
  p6 := 0
  p7 := 0
  p8 := 0
  p9 := 0
  h1 := 0
  h2 := 0
  h3 := 0
  h4 := 0
  h5 := 0
  h6 := 0

/-- The machine right after reset, in a given configuration. `SSTATE`, `ERRLOG`, `SEQ`, `CSN`, `POLLCNT` as R35 and R251 say; a register
for which they say "no value" holds 0, DESIGN CHOICE (log 2); nothing scripted, nothing recorded. -/
def State.resetWith (cfg : Config) : State where
  cfg := cfg
  rawP := 0
  rawT := 0
  rawH := 0
  tfine := 0
  outT := 0
  outP := 0
  outH := 0
  cal := Cal.reset
  sstate := .reset
  errlog := 0b0000
  seq := .idle
  cmdreg := 0
  pollcnt := 0
  mreg := 0
  calbuf1 := Vector.replicate 26 0
  calbuf2 := Vector.replicate 8 0
  databuf := Vector.replicate 8 0
  csn := true
  hist := []
  responses := []
  cmds := []
  answers := []
  delays := []
  rst := false
  hung := false
  busReq := none
  busOut := none

/-- The machine right after reset, with the default parameters (log 3). -/
def State.reset : State := State.resetWith Config.default

end Sys2Proof.Machine
end

