-- ==== Sys2Proof/Machine/Flags.lean ====
section
/-! DEFINITION. The status encodings and the flags: the views `FRESH` and `CALVALID` of `SSTATE` (spec/10_state.md R22, R23), the
codes of `SSTATE` and of the response status (R21, spec/30_encoding.md R90), and the sticky bits of `ERRLOG` (R24). No operation
has an arithmetic flag. -/

namespace Sys2Proof.Machine

/-- The 3-bit pattern of `SSTATE` (R21). -/
def SState.code : SState → BitVec 3
  | .reset => 0b000#3
  | .idle => 0b001#3
  | .measuring => 0b010#3
  | .dataReady => 0b011#3
  | .failed => 0b100#3

/-- The status code of an error (spec/30_encoding.md R90). -/
def Error.code : Error → BitVec 3
  | .transportFailure => 0b001#3
  | .initTimeout => 0b010#3
  | .notCalibrated => 0b011#3
  | .refused => 0b100#3

/-- The status code of a response (spec/30_encoding.md R90). -/
def Status.code : Status → BitVec 3
  | .ok => 0b000#3
  | .error e => e.code

/-- The `ERRLOG` bit number of an error (R24). -/
def Error.bit : Error → Nat
  | .transportFailure => 0
  | .initTimeout => 1
  | .notCalibrated => 2
  | .refused => 3

/-- `ERRLOG` with the bit of an error set, the others as they are (R24). -/
def logError (errlog : BitVec 4) (e : Error) : BitVec 4 := errlog ||| (1#4 <<< e.bit)

/-- `FRESH`: "`FRESH = 1` exactly when `SSTATE = DataReady`" (R22). -/
def State.fresh (s : State) : Bool := s.sstate == .dataReady

/-- `CALVALID`: "`CALVALID = 1` exactly when `SSTATE` is `Idle`, `Measuring` or `DataReady`" (R23). -/
def State.calvalid (s : State) : Bool := s.sstate == .idle || s.sstate == .measuring || s.sstate == .dataReady

end Sys2Proof.Machine
end

