-- ==== Sys2Proof/Machine/Ops.lean ====
section
/-! DEFINITION. The operations every meaning is built from: the bus (spec/20_memory.md R43 to R51), ending a command
(`respond`, spec/00_scope.md R8), taking an error and the return that is part of it (spec/60_exceptions.md R218 to R225), the delay
capability (R232), and hardware reset (spec/70_reset_and_hazards.md R250). -/

namespace Sys2Proof.Machine

/-! ### Events and the select line -/

/-- Appends an event to the history (spec/20_memory.md R48). -/
def record (e : BusEvent) (s : State) : State := { s with hist := s.hist ++ [e] }

/-- `select(high)`: drives the select line and records `Sel(0)` or `Sel(1)` (spec/20_memory.md R43). It cannot fail. -/
def select (high : Bool) (s : State) : State := { record (.sel high) s with csn := high }

/-- `Delay(ms)`: the external capability lets the time pass; the model records the event (spec/60_exceptions.md R232), and says whether
the call returns: one that never does hangs the engine (spec/41_measurement_controller.md R162; log 15). -/
def delay (ms : Nat) (s : State) : Bool × State :=
  let s1 := record (.delay ms) { s with delays := s.delays.tail }
  if s.delays.headD true then (true, s1) else (false, { s1 with hung := true })

/-! ### Byte exchanges and transactions -/

/-- The answer to sending `tx`: the next scripted one, past the script's end the oracle's, which may depend on the whole event
history (spec/20_memory.md R58; log 4). -/
def nextAnswer (answers : List Answer) (hist : List BusEvent) (tx : Byte) : Answer :=
  match answers with
  | a :: _ => a
  | [] => if (Config.oracle hist tx).1 then .ok (Config.oracle hist tx).2 else .fail

/-- `transferByte(tx)`: takes the answer and records `Xfer(tx, rx)` or `XferFail(tx)` (spec/20_memory.md R43, R48). Where `rst` comes
instead, there is no exchange (spec/70_reset_and_hazards.md R250 "without further transfers"); where the call never returns, the
engine hangs in it (spec/41_measurement_controller.md R162). -/
def transferByte (tx : Byte) (s : State) : Answer × State :=
  let s1 := { s with answers := s.answers.tail }
  match nextAnswer s.answers s.hist tx with
  | .ok rx => (.ok rx, record (.xfer tx rx) s1)
  | .fail => (.fail, record (.xferFail tx) s1)
  | .rst => (.rst, s1)
  | .okRst rx => (.okRst rx, record (.xfer tx rx) s1)
  | .failRst => (.failRst, record (.xferFail tx) s1)
  | .hang => (.hang, { s1 with hung := true })

/-- How a transaction ends. -/
inductive BusResult where
  /-- complete: the bytes received, one for each byte sent -/
  | done (rx : List Byte)
  /-- an exchange failed (spec/20_memory.md R51) -/
  | failed
  /-- `rst` was asserted inside it (spec/70_reset_and_hazards.md R250) -/
  | reset
  /-- an exchange never returns (spec/41_measurement_controller.md R162) -/
  | hung
  deriving DecidableEq, Repr

/-- The byte exchanges of a transaction in order; after one that fails "the engine makes no further exchange"
(spec/20_memory.md R51), nor after `rst` (spec/70_reset_and_hazards.md R250). -/
def exchanges : List Byte → State → BusResult × State
  | [], s => (.done [], s)
  | tx :: txs, s =>
    match transferByte tx s with
    | (.ok rx, s1) =>
      match exchanges txs s1 with
      | (.done rs, s2) => (.done (rx :: rs), s2)
      | (r, s2) => (r, s2)
    | (.fail, s1) => (.failed, s1)
    | (.rst, s1) => (.reset, s1)
    | (.okRst _, s1) => (.reset, s1)
    | (.failRst, s1) => (.reset, s1)
    | (.hang, s1) => (.hung, s1)

/-- One transaction (spec/20_memory.md R44): `Sel(0)`, the exchanges, `Sel(1)`, which stands on failure too (R51). On `rst` the select
line is raised by the reset itself; in a hung exchange it stays low (spec/10_state.md R30). -/
def transact (sent : List Byte) (s : State) : BusResult × State :=
  match exchanges sent (select false s) with
  | (.reset, s1) => (.reset, s1)
  | (.hung, s1) => (.hung, s1)
  | (r, s1) => (r, select true s1)

/-- `BusRead(a, n)` at wire address `a`: its value is the bytes after the one received with the address byte, which is
discarded (spec/20_memory.md R45, R46, R49). -/
def busRead (a : BitVec 7) (n : Nat) (s : State) : BusResult × State :=
  match transact (readFrame a n) s with
  | (.done rx, s1) => (.done rx.tail, s1)
  | r => r

/-- `BusWrite(a, v)` at wire address `a`; the bytes received are discarded (spec/20_memory.md R47, R50). -/
def busWrite (a : BitVec 7) (v : Byte) (s : State) : BusResult × State :=
  match transact (writeFrame a v) s with
  | (.done _, s1) => (.done [], s1)
  | r => r

/-! ### Ending a command -/

/-- `respond(status, data)`: ends the command, sets `SEQ <- IDLE` and returns the pair to the host (spec/00_scope.md R8). -/
def respond (status : Status) (data : Word) (s : State) : State :=
  { s with seq := .idle, responses := s.responses ++ [{ status := status, data := data }] }

/-- Where an error is raised, which decides its state effect (spec/60_exceptions.md R219 to R222). -/
inductive During where
  /-- at dispatch: R222 -/
  | dispatch
  /-- inside `INIT`: R219 -/
  | init
  /-- inside `FORCE`: R220 -/
  | force
  /-- inside the fetch of a `GET_*`: R221 -/
  | fetch
  deriving DecidableEq, Repr

/-- The state effect of an error: inside `INIT` `SSTATE <- Failed` (R219), inside `FORCE` `SSTATE` is left at `Idle`, the value dispatch
gave it (R220), inside a fetch and at dispatch it is unchanged (R221, R222). -/
def errorState : During → SState → SState
  | .init, _ => .failed
  | .force, x => x
  | .fetch, x => x
  | .dispatch, x => x

/-- TAKING AN ERROR: `raise E` (spec/60_exceptions.md R218), after the open transaction has been closed (its step (1) is `transact`'s
last event): the `ERRLOG` bit, the state effect, and `respond(E, 0)`, which is also the return (R225: "an error response returns
control to the host exactly as a success does"). Nothing is saved. -/
def raise (e : Error) (during : During) (s : State) : State :=
  respond (.error e) 0 { s with errlog := logError s.errlog e, sstate := errorState during s.sstate }

/-! ### Hardware reset -/

/-- `rst` (spec/70_reset_and_hazards.md R250, R251): a command in flight is abandoned without a response, an open transaction's select line
goes inactive without further transfers, and every engine register takes its reset value, whatever the engine was doing: also a
hung call is over (log 15). The host, the device and the parameters are as they were (R252). The pulse is over (log 5). -/
def hardwareReset (s : State) : State :=
  { State.resetWith s.cfg with
    hist := if s.csn then s.hist else s.hist ++ [.sel true]
    responses := s.responses
    cmds := s.cmds
    answers := s.answers
    delays := s.delays
    busReq := s.busReq
    busOut := s.busOut }

/-! ### A phase that runs one transaction -/

/-- The common shape of the phases that touch the bus: on success `commit` the bytes, on a failed transfer raise `TransportFailure`
with no other effect on engine state (spec/20_memory.md R51, spec/60_exceptions.md R223), on `rst` reset; in a hung exchange stay where it
is (spec/41_measurement_controller.md R162 "in the phase that called it"). -/
def busPhase (during : During) (commit : List Byte → State → State) : BusResult × State → State
  | (.done rx, s) => commit rx s
  | (.failed, s) => raise .transportFailure during s
  | (.reset, s) => hardwareReset s
  | (.hung, s) => s

end Sys2Proof.Machine
end

