-- ==== Sys2Proof/Machine/Calibration.lean ====
section
/-! DEFINITION. The calibration coefficient decoder (spec/40_calibration_decoder.md): one function per coefficient, each with its
width and signedness, and the micro-operation `CAL_DECODE`. The layouts are spec/30_encoding.md R81 to R84. -/

namespace Sys2Proof.Machine

/-- `T1`, u16 (R101) -/
def decodeT1 (b : Vector Byte 26) : BitVec 16 := pair b[0] b[1]
/-- `T2`, s16 (R102) -/
def decodeT2 (b : Vector Byte 26) : BitVec 16 := pair b[2] b[3]
/-- `T3`, s16 (R103) -/
def decodeT3 (b : Vector Byte 26) : BitVec 16 := pair b[4] b[5]
/-- `P1`, u16 (R104) -/
def decodeP1 (b : Vector Byte 26) : BitVec 16 := pair b[6] b[7]
/-- `P2`, s16 (R105) -/
def decodeP2 (b : Vector Byte 26) : BitVec 16 := pair b[8] b[9]
/-- `P3`, s16 (R106) -/
def decodeP3 (b : Vector Byte 26) : BitVec 16 := pair b[10] b[11]
/-- `P4`, s16 (R107) -/
def decodeP4 (b : Vector Byte 26) : BitVec 16 := pair b[12] b[13]
/-- `P5`, s16 (R108) -/
def decodeP5 (b : Vector Byte 26) : BitVec 16 := pair b[14] b[15]
/-- `P6`, s16 (R109) -/
def decodeP6 (b : Vector Byte 26) : BitVec 16 := pair b[16] b[17]
/-- `P7`, s16 (R110) -/
def decodeP7 (b : Vector Byte 26) : BitVec 16 := pair b[18] b[19]
/-- `P8`, s16 (R111) -/
def decodeP8 (b : Vector Byte 26) : BitVec 16 := pair b[20] b[21]
/-- `P9`, s16 (R112) -/
def decodeP9 (b : Vector Byte 26) : BitVec 16 := pair b[22] b[23]
/-- `H1`, u8, the last byte of block 1 (R113) -/
def decodeH1 (b : Vector Byte 26) : BitVec 8 := b[25]
/-- `H2`, s16 (R114) -/
def decodeH2 (b : Vector Byte 8) : BitVec 16 := pair b[0] b[1]
/-- `H3`, u8 (R115) -/
def decodeH3 (b : Vector Byte 8) : BitVec 8 := b[2]
/-- `H4`, a 12-bit value sign-extended to s16 (R116) -/
def decodeH4 (b : Vector Byte 8) : BitVec 16 := sext12 (h4Pattern b[3] b[4])
/-- `H5`, a 12-bit value sign-extended to s16 (R117) -/
def decodeH5 (b : Vector Byte 8) : BitVec 16 := sext12 (h5Pattern b[5] b[4])
/-- `H6`, s8 (R118) -/
def decodeH6 (b : Vector Byte 8) : BitVec 8 := b[6]

/-- `decode(CALBUF1, CALBUF2)`: the 18 coefficients (R100). `CALBUF1[24]` and `CALBUF2[7]` influence none (R119). -/
def decodeCal (b1 : Vector Byte 26) (b2 : Vector Byte 8) : Cal where
  t1 := decodeT1 b1
  t2 := decodeT2 b1
  t3 := decodeT3 b1
  p1 := decodeP1 b1
  p2 := decodeP2 b1
  p3 := decodeP3 b1
  p4 := decodeP4 b1
  p5 := decodeP5 b1
  p6 := decodeP6 b1
  p7 := decodeP7 b1
  p8 := decodeP8 b1
  p9 := decodeP9 b1
  h1 := decodeH1 b1
  h2 := decodeH2 b2
  h3 := decodeH3 b2
  h4 := decodeH4 b2
  h5 := decodeH5 b2
  h6 := decodeH6 b2

/-- `CAL_DECODE`: `CAL <- decode(CALBUF1, CALBUF2)`; `SEQ <- CFG_HUM_WR`; no bus event, no error (R100,
spec/41_measurement_controller.md R137). -/
def execSeqCalDecode (s : State) : Host.Outcome State Fault Refusal :=
  .next { s with cal := decodeCal s.calbuf1 s.calbuf2, seq := .cfgHumWr }

end Sys2Proof.Machine
end

