-- ==== Sys2Proof/Machine/Commands.lean ====
section
/-! DEFINITION. The host commands (format H) as the engine takes them from the command port: `CMDREG <- c`, then the first case of
spec/41_measurement_controller.md R130 that applies; and `IDLE`, the phase that waits for one. An accepted command is carried out by
the phases that follow (spec/41_measurement_controller.md R131, R142, R149, R161; log 1). -/

namespace Sys2Proof.Machine

/-- R130 case (1): a reserved code is answered `Refused` (R73, spec/60_exceptions.md R214). -/
def acceptReserved (c : BitVec 3) (s : State) : State :=
  raise .refused .dispatch { s with cmdreg := c }

/-- R130 case (2): `INIT` is accepted in `Reset` only, `SEQ <- RESET_WR`, else `Refused`. -/
def acceptInit (s : State) : State :=
  let s1 := { s with cmdreg := 0b001#3 }
  if s.sstate = .reset then { s1 with seq := .resetWr } else raise .refused .dispatch s1

/-- R130 case (3): `FORCE` is accepted when `CALVALID`: `SSTATE <- Idle` (the cached results are invalid from here on, R142),
`SEQ <- FORCE_RD`; else `NotCalibrated`. -/
def acceptForce (s : State) : State :=
  let s1 := { s with cmdreg := 0b010#3 }
  if s.calvalid then { s1 with sstate := .idle, seq := .forceRd } else raise .notCalibrated .dispatch s1

/-- R130 case (4): an accessor answers at once from the cache in `DataReady`, starts the fetch in `Idle` and `Measuring`, and is
`NotCalibrated` in `Reset` and `Failed`. -/
def acceptAccessor (c : BitVec 3) (out : Word) (s : State) : State :=
  let s1 := { s with cmdreg := c }
  match s.sstate with
  | .dataReady => respond .ok out s1
  | .idle => { s1 with seq := .dataRd }
  | .measuring => { s1 with seq := .dataRd }
  | .reset => raise .notCalibrated .dispatch s1
  | .failed => raise .notCalibrated .dispatch s1

/-- `INIT`, 0b001 (R131) -/
def execInit (s : State) : Host.Outcome State Fault Refusal := .next (acceptInit s)

/-- `FORCE`, 0b010 (R142) -/
def execForce (s : State) : Host.Outcome State Fault Refusal := .next (acceptForce s)

/-- `GET_T`, 0b100 (R146) -/
def execGetT (s : State) : Host.Outcome State Fault Refusal := .next (acceptAccessor 0b100#3 s.outT s)

/-- `GET_P`, 0b101 (R147) -/
def execGetP (s : State) : Host.Outcome State Fault Refusal := .next (acceptAccessor 0b101#3 s.outP s)

/-- `GET_H`, 0b110 (R148) -/
def execGetH (s : State) : Host.Outcome State Fault Refusal := .next (acceptAccessor 0b110#3 s.outH s)

/-- Reserved code 0b000 (R73) -/
def execReserved000 (s : State) : Host.Outcome State Fault Refusal := .next (acceptReserved 0b000#3 s)

/-- Reserved code 0b011 (R73) -/
def execReserved011 (s : State) : Host.Outcome State Fault Refusal := .next (acceptReserved 0b011#3 s)

/-- Reserved code 0b111 (R73) -/
def execReserved111 (s : State) : Host.Outcome State Fault Refusal := .next (acceptReserved 0b111#3 s)

/-- The whole dispatch of R130, by command code. -/
def dispatch (c : BitVec 3) (s : State) : Host.Outcome State Fault Refusal :=
  match c with
  | 0b000#3 => execReserved000 s
  | 0b001#3 => execInit s
  | 0b010#3 => execForce s
  | 0b011#3 => execReserved011 s
  | 0b100#3 => execGetT s
  | 0b101#3 => execGetP s
  | 0b110#3 => execGetH s
  | 0b111#3 => execReserved111 s

/-- `IDLE`: takes the command the host presents and dispatches it; with none presented it waits, which changes nothing (R130,
spec/70_reset_and_hazards.md R254, R268). -/
def execSeqIdle (s : State) : Host.Outcome State Fault Refusal :=
  match s.cmds with
  | [] => .next s
  | c :: cs => dispatch c { s with cmds := cs }

end Sys2Proof.Machine
end

