-- ==== Sys2Proof/Machine/Compensation.lean ====
section
/-! DEFINITION. The fixed-point compensation pipeline (spec/42_compensation_engine.md): `RAW_DECODE`, `COMP_T`, `COMP_P`, `COMP_H`.
The three formulas are the pseudocode of R178, R181 and R185 step by step, over the integers with the wrap, shift and divide
primitives of spec/00_scope.md R8; the spec marks most of their steps as general knowledge (log 10). -/

namespace Sys2Proof.Machine

/-- Fine temperature, steps T.1 to T.12 (R178). -/
def fineTemperature (rawT : Nat) (t1 t2 t3 : Int) : Int :=
  let a1 : Int := lsr rawT 3
  let b1 := 2 * t1
  let d1 := w32 (a1 - b1)
  let m1 := w32 (d1 * t2)
  let var1 := asr m1 11
  let a2 : Int := lsr rawT 4
  let d2 := w32 (a2 - t1)
  let sq := w32 (d2 * d2)
  let s2 := asr sq 12
  let m2 := w32 (s2 * t3)
  let var2 := asr m2 14
  w32 (var1 + var2)

/-- The exposed temperature `(FineTemperature * 5 + 128) >> 8`, steps T.13 to T.15 (R178, R179). -/
def exposedTemperature (tfine : Int) : Int :=
  let t5 := w32 (tfine * 5)
  let t6 := w32 (t5 + 128)
  asr t6 8

/-- `v2c`, steps P.1 to P.4 (R181). -/
def pressureOffset (tfine p4 p5 p6 : Int) : Int :=
  let v1 := w64 (tfine - 128000)
  let v2a := w64 (w64 (v1 * v1) * p6)
  let v2b := w64 (v2a + shl64 (w64 (v1 * p5)) 17)
  w64 (v2b + shl64 p4 35)

/-- `v1c`, the denominator term, steps P.1, P.5 and P.6 (R181). -/
def pressureDenominator (tfine p1 p2 p3 : Int) : Int :=
  let v1 := w64 (tfine - 128000)
  let v1b := w64 (asr (w64 (w64 (v1 * v1) * p3)) 8 + shl64 (w64 (v1 * p2)) 12)
  asr (w64 (w64 (2 ^ 47 + v1b) * p1)) 33

/-- `p2`, steps P.8 to P.12, from `v2c` and a `v1c` that is not zero (R181). -/
def pressureQuotient (rawP : Nat) (v2c v1c p7 p8 p9 : Int) : Int :=
  let p0 : Int := 1048576 - rawP
  let p1 := sdiv64 (w64 (w64 (shl64 p0 31 - v2c) * 3125)) v1c
  let v1d := asr (w64 (w64 (p9 * asr p1 13) * asr p1 13)) 25
  let v2d := asr (w64 (p8 * p1)) 19
  w64 (asr (w64 (w64 (p1 + v1d) + v2d)) 8 + shl64 p7 4)

/-- Pressure, steps P.1 to P.13, with the zero-denominator escape of step P.7 (R181, R182). -/
def pressure (rawP : Nat) (tfine : Int) (p1 p2 p3 p4 p5 p6 p7 p8 p9 : Int) : Word :=
  let v1c := pressureDenominator tfine p1 p2 p3
  if v1c = 0 then 0
  else BitVec.ofInt 32 (pressureQuotient rawP (pressureOffset tfine p4 p5 p6) v1c p7 p8 p9)

/-- `z`, the humidity before the clamp, steps H.1 to H.13 (R185). -/
def humidityUnclamped (rawH : Nat) (tfine h1 h2 h3 h4 h5 h6 : Int) : Int :=
  let x := w32 (tfine - 76800)
  let a := shl32 rawH 14
  let b := shl32 h4 20
  let c := w32 (h5 * x)
  let d := w32 (w32 (w32 (a - b) - c) + 16384)
  let l := asr d 15
  let e := asr (w32 (x * h6)) 10
  let f := w32 (asr (w32 (x * h3)) 11 + 32768)
  let g := w32 (asr (w32 (e * f)) 10 + 2097152)
  let r := asr (w32 (w32 (g * h2) + 8192)) 14
  let y := w32 (l * r)
  let q := asr y 15
  w32 (y - asr (w32 (asr (w32 (q * q)) 7 * h1)) 4)

/-- Humidity: the clamp to [0, 419430400] and the final shift, steps H.14 and H.15 (R185, R186). -/
def humidity (rawH : Nat) (tfine h1 h2 h3 h4 h5 h6 : Int) : Nat :=
  let z := humidityUnclamped rawH tfine h1 h2 h3 h4 h5 h6
  let zc := clamp z 0 419430400
  lsr zc.toNat 12

/-! ### The phases -/

/-- `TFINE` of a raw count and the coefficients: `T1` unsigned, `T2` and `T3` signed (R175, R178). -/
def compTfine (rawT : BitVec 20) (c : Cal) : Word :=
  BitVec.ofInt 32 (fineTemperature rawT.toNat c.t1.toNat c.t2.toInt c.t3.toInt)

/-- `OUT_T` of `TFINE` (R179). -/
def compOutT (tfine : Word) : Word := BitVec.ofInt 32 (exposedTemperature tfine.toInt)

/-- `OUT_P` of a raw count, `TFINE` and the coefficients: `P1` unsigned, `P2` to `P9` signed (R175, R181). -/
def compOutP (rawP : BitVec 20) (tfine : Word) (c : Cal) : Word :=
  pressure rawP.toNat tfine.toInt c.p1.toNat c.p2.toInt c.p3.toInt c.p4.toInt c.p5.toInt c.p6.toInt c.p7.toInt c.p8.toInt c.p9.toInt

/-- `OUT_H` of a raw count, `TFINE` and the coefficients: `H1`, `H3` unsigned, `H2`, `H4`, `H5`, `H6` signed (R175, R185). -/
def compOutH (rawH : BitVec 16) (tfine : Word) (c : Cal) : Word :=
  BitVec.ofNat 32 (humidity rawH.toNat tfine.toInt c.h1.toNat c.h2.toInt c.h3.toNat c.h4.toInt c.h5.toInt c.h6.toInt)

/-- The word an accessor's response carries, by the command in `CMDREG` (spec/41_measurement_controller.md R153). For a code that
is no accessor, which no run has in `COMP_H`, spec/30_encoding.md R89 gives 0 (log 14). -/
def accessorData (s : State) : Word :=
  if s.cmdreg = 0b100#3 then s.outT
  else if s.cmdreg = 0b101#3 then s.outP
  else if s.cmdreg = 0b110#3 then s.outH
  else 0

/-- `RAW_DECODE`: unpacks the burst; `SEQ <- COMP_T` (R177, spec/41_measurement_controller.md R151). -/
def execSeqRawDecode (s : State) : Host.Outcome State Fault Refusal :=
  .next { s with
    rawP := count20 s.databuf[0] s.databuf[1] s.databuf[2]
    rawT := count20 s.databuf[3] s.databuf[4] s.databuf[5]
    rawH := count16 s.databuf[6] s.databuf[7]
    seq := .compT }

/-- `COMP_T`: writes `TFINE` and `OUT_T`; `SEQ <- COMP_P` (R178, spec/41_measurement_controller.md R152). -/
def execSeqCompT (s : State) : Host.Outcome State Fault Refusal :=
  let tfine := compTfine s.rawT s.cal
  .next { s with tfine := tfine, outT := compOutT tfine, seq := .compP }

/-- `COMP_P`: writes `OUT_P`; `SEQ <- COMP_H` (R181, spec/41_measurement_controller.md R152). -/
def execSeqCompP (s : State) : Host.Outcome State Fault Refusal :=
  .next { s with outP := compOutP s.rawP s.tfine s.cal, seq := .compH }

/-- `COMP_H`: writes `OUT_H`, then `SSTATE <- DataReady` and `respond(OK, OUT_x)` (R185, spec/41_measurement_controller.md R152, R153). -/
def execSeqCompH (s : State) : Host.Outcome State Fault Refusal :=
  let s1 := { s with outH := compOutH s.rawH s.tfine s.cal, sstate := .dataReady }
  .next (respond .ok (accessorData s1) s1)

end Sys2Proof.Machine
end

