-- ==== Sys2Proof/Machine/Bus.lean ====
section
/-! DEFINITION. The bus transactions (format A) as operations of their own: spec/20_memory.md R49 and R50 for the generic two,
spec/30_encoding.md R75 for the eight the engine issues. The phases of Sequencer.lean run the same transactions and use their values; run
on its own (log 7), a transaction leaves its value in `busOut`. -/

namespace Sys2Proof.Machine

/-- A transaction run on its own: its value, or that it failed, goes to `busOut`; no phase is there to raise an error (R51 "the phase
raises `TransportFailure`"). -/
def deliver : BusResult × State → State
  | (.done rx, s) => { s with busOut := some rx }
  | (.failed, s) => { s with busOut := none }
  | (.reset, s) => hardwareReset { s with busOut := none }
  | (.hung, s) => { s with busOut := none }

/-- `BUS.READ`: `BusRead(a, n)` for `1 <= n` (R49). -/
def execBusRead (a : BitVec 7) (n : Nat) (s : State) : Host.Outcome State Fault Refusal :=
  if n = 0 then .refused .emptyRead else .next (deliver (busRead a n s))

/-- `BUS.WRITE`: `BusWrite(a, v)` (R50). -/
def execBusWrite (a : BitVec 7) (v : Byte) (s : State) : Host.Outcome State Fault Refusal :=
  .next (deliver (busWrite a v s))

/-- The transaction `BUS.WR_RESET`: one byte to `A_RESET`. -/
def wrReset (v : Byte) (s : State) : BusResult × State := busWrite (wireAddr s.cfg.aReset) v s

/-- The transaction `BUS.RD_STATUS`: one byte from `A_STATUS`. -/
def rdStatus (s : State) : BusResult × State := busRead (wireAddr s.cfg.aStatus) 1 s

/-- The transaction `BUS.RD_CAL1`: 26 bytes from `A_CAL1`. -/
def rdCal1 (s : State) : BusResult × State := busRead (wireAddr s.cfg.aCal1) Config.cal1Len s

/-- The transaction `BUS.RD_CAL2`: 8 bytes from `A_CAL2`. -/
def rdCal2 (s : State) : BusResult × State := busRead (wireAddr s.cfg.aCal2) Config.cal2Len s

/-- The transaction `BUS.WR_CTRL_HUM`: one byte to `A_CTRL_HUM`. -/
def wrCtrlHum (v : Byte) (s : State) : BusResult × State := busWrite (wireAddr s.cfg.aCtrlHum) v s

/-- The transaction `BUS.WR_CTRL_MEAS`: one byte to `A_CTRL_MEAS`. -/
def wrCtrlMeas (v : Byte) (s : State) : BusResult × State := busWrite (wireAddr s.cfg.aCtrlMeas) v s

/-- The transaction `BUS.RD_CTRL_MEAS`: one byte from `A_CTRL_MEAS`. -/
def rdCtrlMeas (s : State) : BusResult × State := busRead (wireAddr s.cfg.aCtrlMeas) 1 s

/-- The transaction `BUS.RD_DATA`: 8 bytes from `A_DATA`. -/
def rdData (s : State) : BusResult × State := busRead (wireAddr s.cfg.aData) Config.dataLen s

/-- `BUS.WR_RESET` -/
def execBusWrReset (v : Byte) (s : State) : Host.Outcome State Fault Refusal := .next (deliver (wrReset v s))

/-- `BUS.RD_STATUS` -/
def execBusRdStatus (s : State) : Host.Outcome State Fault Refusal := .next (deliver (rdStatus s))

/-- `BUS.RD_CAL1` -/
def execBusRdCal1 (s : State) : Host.Outcome State Fault Refusal := .next (deliver (rdCal1 s))

/-- `BUS.RD_CAL2` -/
def execBusRdCal2 (s : State) : Host.Outcome State Fault Refusal := .next (deliver (rdCal2 s))

/-- `BUS.WR_CTRL_HUM` -/
def execBusWrCtrlHum (v : Byte) (s : State) : Host.Outcome State Fault Refusal := .next (deliver (wrCtrlHum v s))

/-- `BUS.WR_CTRL_MEAS` -/
def execBusWrCtrlMeas (v : Byte) (s : State) : Host.Outcome State Fault Refusal := .next (deliver (wrCtrlMeas v s))

/-- `BUS.RD_CTRL_MEAS` -/
def execBusRdCtrlMeas (s : State) : Host.Outcome State Fault Refusal := .next (deliver (rdCtrlMeas s))

/-- `BUS.RD_DATA` -/
def execBusRdData (s : State) : Host.Outcome State Fault Refusal := .next (deliver (rdData s))

end Sys2Proof.Machine
end

