-- ==== Sys2Proof/Machine/Sequencer.lean ====
section
/-! DEFINITION. The sequencer phases that touch the bus, and `POLL_WAIT` (spec/41_measurement_controller.md R132 to R150); their successors
and error effects are the table of R161. -/

namespace Sys2Proof.Machine

/-- `RESET_WR`: `BusWrite(A_RESET, V_RESET)`; `POLLCNT <- 0`; `SEQ <- POLL_RD` (R132). -/
def execSeqResetWr (s : State) : Host.Outcome State Fault Refusal :=
  .next (busPhase .init (fun _ s1 => { s1 with pollcnt := 0, seq := .pollRd }) (wrReset s.cfg.vReset s))

/-- What `POLL_RD` does with the status byte: `POLLCNT <- POLLCNT + 1`; bit 0 clear: `SEQ <- CAL1_RD`; else at the bound
`InitTimeout`, else `SEQ <- POLL_WAIT` (R133; spec/30_encoding.md R77: bit 0 only; log 13 for `POLLCNT` on a timeout). -/
def pollTest (status : Byte) (s : State) : State :=
  let s1 := { s with pollcnt := s.pollcnt + 1 }
  if status.getLsbD 0 = false then { s1 with seq := .cal1Rd }
  else
    match s.cfg.pollLimit with
    | none => { s1 with seq := .pollWait }
    | some limit => if s1.pollcnt ≥ limit then raise .initTimeout .init s1 else { s1 with seq := .pollWait }

/-- `POLL_RD`: reads the status register and tests bit 0 (R133). -/
def execSeqPollRd (s : State) : Host.Outcome State Fault Refusal :=
  .next (busPhase .init (fun rx s1 => pollTest (toBuffer 1 rx)[0] s1) (rdStatus s))

/-- `POLL_WAIT`: `Delay(2)`; `SEQ <- POLL_RD` (R134). A `Delay` that never returns leaves the engine here (R162). -/
def execSeqPollWait (s : State) : Host.Outcome State Fault Refusal :=
  match delay Config.pollIntervalMs s with
  | (true, s1) => .next { s1 with seq := .pollRd }
  | (false, s1) => .next s1

/-- `CAL1_RD`: `CALBUF1 <- BusRead(A_CAL1, 26)`; `SEQ <- CAL2_RD` (R135). -/
def execSeqCal1Rd (s : State) : Host.Outcome State Fault Refusal :=
  .next (busPhase .init (fun rx s1 => { s1 with calbuf1 := toBuffer 26 rx, seq := .cal2Rd }) (rdCal1 s))

/-- `CAL2_RD`: `CALBUF2 <- BusRead(A_CAL2, 8)`; `SEQ <- CAL_DECODE` (R136). -/
def execSeqCal2Rd (s : State) : Host.Outcome State Fault Refusal :=
  .next (busPhase .init (fun rx s1 => { s1 with calbuf2 := toBuffer 8 rx, seq := .calDecode }) (rdCal2 s))

/-- `CFG_HUM_WR`: `BusWrite(A_CTRL_HUM, 0b00000 || OSRS_H)`; `SEQ <- CFG_MEAS_WR` (R138). -/
def execSeqCfgHumWr (s : State) : Host.Outcome State Fault Refusal :=
  .next (busPhase .init (fun _ s1 => { s1 with seq := .cfgMeasWr }) (wrCtrlHum (humByte s.cfg) s))

/-- `CFG_MEAS_WR`: `BusWrite(A_CTRL_MEAS, OSRS_T || OSRS_P || MODE_SLEEP)`; `SSTATE <- Idle`; `respond(OK, 0)` (R139). -/
def execSeqCfgMeasWr (s : State) : Host.Outcome State Fault Refusal :=
  .next (busPhase .init (fun _ s1 => respond .ok 0 { s1 with sstate := .idle }) (wrCtrlMeas (sleepByte s.cfg) s))

/-- `FORCE_RD`: `MREG <- BusRead(A_CTRL_MEAS, 1)[0]`; `SEQ <- FORCE_WR` (R143). -/
def execSeqForceRd (s : State) : Host.Outcome State Fault Refusal :=
  .next (busPhase .force (fun rx s1 => { s1 with mreg := (toBuffer 1 rx)[0], seq := .forceWr }) (rdCtrlMeas s))

/-- `FORCE_WR`: `BusWrite(A_CTRL_MEAS, MREG[7:2] || MODE_FORCED)`; `SSTATE <- Measuring`; `respond(OK, 0)` (R144). -/
def execSeqForceWr (s : State) : Host.Outcome State Fault Refusal :=
  .next (busPhase .force (fun _ s1 => respond .ok 0 { s1 with sstate := .measuring }) (wrCtrlMeas (forcedByte s.mreg) s))

/-- `DATA_RD`: `DATABUF <- BusRead(A_DATA, 8)`; `SEQ <- RAW_DECODE` (R150). -/
def execSeqDataRd (s : State) : Host.Outcome State Fault Refusal :=
  .next (busPhase .fetch (fun rx s1 => { s1 with databuf := toBuffer 8 rx, seq := .rawDecode }) (rdData s))

end Sys2Proof.Machine
end

