-- ==== Sys2Proof/Machine/Dispatch.lean ====
section
/-! DEFINITION. The meaning of every operation: one arm per constructor of `Instr`. -/

namespace Sys2Proof.Machine

/-- What one operation does to the state. -/
def exec (i : Instr) (s : State) : Host.Outcome State Fault Refusal :=
  match i with
  | .init => Sys2Proof.Machine.execInit s
  | .force => Sys2Proof.Machine.execForce s
  | .getT => Sys2Proof.Machine.execGetT s
  | .getP => Sys2Proof.Machine.execGetP s
  | .getH => Sys2Proof.Machine.execGetH s
  | .reserved000 => Sys2Proof.Machine.execReserved000 s
  | .reserved011 => Sys2Proof.Machine.execReserved011 s
  | .reserved111 => Sys2Proof.Machine.execReserved111 s
  | .busRead a n => Sys2Proof.Machine.execBusRead a n s
  | .busWrite a v => Sys2Proof.Machine.execBusWrite a v s
  | .busWrReset v => Sys2Proof.Machine.execBusWrReset v s
  | .busRdStatus => Sys2Proof.Machine.execBusRdStatus s
  | .busRdCal1 => Sys2Proof.Machine.execBusRdCal1 s
  | .busRdCal2 => Sys2Proof.Machine.execBusRdCal2 s
  | .busWrCtrlHum v => Sys2Proof.Machine.execBusWrCtrlHum v s
  | .busWrCtrlMeas v => Sys2Proof.Machine.execBusWrCtrlMeas v s
  | .busRdCtrlMeas => Sys2Proof.Machine.execBusRdCtrlMeas s
  | .busRdData => Sys2Proof.Machine.execBusRdData s
  | .seqIdle => Sys2Proof.Machine.execSeqIdle s
  | .seqResetWr => Sys2Proof.Machine.execSeqResetWr s
  | .seqPollRd => Sys2Proof.Machine.execSeqPollRd s
  | .seqPollWait => Sys2Proof.Machine.execSeqPollWait s
  | .seqCal1Rd => Sys2Proof.Machine.execSeqCal1Rd s
  | .seqCal2Rd => Sys2Proof.Machine.execSeqCal2Rd s
  | .seqCalDecode => Sys2Proof.Machine.execSeqCalDecode s
  | .seqCfgHumWr => Sys2Proof.Machine.execSeqCfgHumWr s
  | .seqCfgMeasWr => Sys2Proof.Machine.execSeqCfgMeasWr s
  | .seqForceRd => Sys2Proof.Machine.execSeqForceRd s
  | .seqForceWr => Sys2Proof.Machine.execSeqForceWr s
  | .seqDataRd => Sys2Proof.Machine.execSeqDataRd s
  | .seqRawDecode => Sys2Proof.Machine.execSeqRawDecode s
  | .seqCompT => Sys2Proof.Machine.execSeqCompT s
  | .seqCompP => Sys2Proof.Machine.execSeqCompP s
  | .seqCompH => Sys2Proof.Machine.execSeqCompH s

end Sys2Proof.Machine
end

