-- ==== Sys2Proof/Machine/Step.lean ====
section
/-! DEFINITION. One step of the machine (spec/70_reset_and_hazards.md R268: "A step of the machine is one phase"), and how the next
operation is placed where the step finds it. -/

namespace Sys2Proof.Machine

/-- One step. A configuration the spec refuses is refused (spec/20_memory.md R41); an asserted `rst` resets, whatever the engine is doing
(R250); an engine that hangs in a call makes no progress (spec/41_measurement_controller.md R162); a transaction placed in `busReq` runs
(log 7); else the phase in `SEQ` runs (R268), which in `IDLE` takes the host's command. -/
def step (s : State) : Host.Outcome State Fault Refusal :=
  if s.cfg.ok = false then .refused .configuration
  else if s.rst then .next (hardwareReset s)
  else if s.hung then .next s
  else
    match s.busReq with
    | some tr => exec (decodeTransaction s.cfg tr) { s with busReq := none }
    | none => exec (decodePhase s.seq.code) s

/-- A code placed where `step` finds its next operation: a command on the port of an idle engine, a phase in `SEQ`, a transaction
in `busReq`. Bytes that are no transaction cannot be placed: the state is as it was. -/
def State.withCode (s : State) : Code → State
  | .command c => { s with seq := .idle, cmds := c :: s.cmds, rst := false, hung := false, busReq := none }
  | .phase c => { s with seq := Phase.ofCode c, rst := false, hung := false, busReq := none }
  | .frame sent =>
    match transactionOf sent with
    | .ok tr => { s with busReq := some tr, rst := false, hung := false }
    | .error _ => s

/-- The table's word placed where `step` finds its next operation (logs 6, 7 and 9). -/
def State.withFetchWord (s : State) (nbits w : Nat) : State :=
  s.withCode (codeOfTableWord Config.default nbits w)

end Sys2Proof.Machine
end

