-- ==== Sys2Proof/Machine/BigStep.lean ====
section
/-! DEFINITION. The five host commands as one big step each, written from the command rules (spec/41_measurement_controller.md R131, R142,
R146 to R149): "A model may implement each command as one big step ... or as small steps (the phase rules); the two agree by
construction". The machine runs the small steps (log 1); nothing here is called by `step`, and that the two agree is stated in the
obligations. A big step sets `SEQ` before each transaction only so that one that hangs does so in the phase that called it (R162); `respond`
and `raise` set it to `IDLE`. -/

namespace Sys2Proof.Machine

/-- `FORCE` as one big step (R142). -/
def bigForce (s : State) : State :=
  if s.calvalid then
    busPhase .force
      (fun rx s1 =>
        let m := (toBuffer 1 rx)[0]
        busPhase .force (fun _ s2 => respond .ok 0 { s2 with sstate := .measuring })
          (wrCtrlMeas (forcedByte m) { s1 with mreg := m, seq := .forceWr }))
      (rdCtrlMeas { s with cmdreg := 0b010#3, sstate := .idle, seq := .forceRd })
  else raise .notCalibrated .dispatch { s with cmdreg := 0b010#3 }

/-- The fetch-and-compute step after its burst (R149): unpack, then the three compensations, then `DataReady`. -/
def compute (data : Vector Byte 8) (s : State) : State :=
  let rawP := count20 data[0] data[1] data[2]
  let rawT := count20 data[3] data[4] data[5]
  let rawH := count16 data[6] data[7]
  let tfine := compTfine rawT s.cal
  { s with
    databuf := data
    rawP := rawP
    rawT := rawT
    rawH := rawH
    tfine := tfine
    outT := compOutT tfine
    outP := compOutP rawP tfine s.cal
    outH := compOutH rawH tfine s.cal
    sstate := .dataReady }

/-- An accessor with command code `c` as one big step (R146 to R148): from the cache when fresh, else after a fetch (R149). -/
def bigGet (c : BitVec 3) (s : State) : State :=
  let s1 := { s with cmdreg := c }
  if s.fresh then respond .ok (accessorData s1) s1
  else if s.calvalid then
    busPhase .fetch
      (fun rx s2 =>
        let s3 := compute (toBuffer 8 rx) s2
        respond .ok (accessorData s3) s3)
      (rdData { s1 with seq := .dataRd })
  else raise .notCalibrated .dispatch s1

/-- How the readiness poll stands after some status reads. -/
inductive PollResult where
  /-- the device is ready: the initialization goes on -/
  | ready (s : State)
  /-- `INIT` is over, by an error or by `rst`, or hangs in a call -/
  | ended (s : State)
  /-- still busy, and no more reads were to be made -/
  | busy
  deriving DecidableEq, Repr

/-- The readiness poll (R133, R134) with at most `fuel` status reads (spec/70_reset_and_hazards.md R269 "or runs `INIT` with fuel"). -/
def poll : Nat → State → PollResult
  | 0, _ => .busy
  | fuel + 1, s =>
    match rdStatus s with
    | (.failed, s1) => .ended (raise .transportFailure .init s1)
    | (.reset, s1) => .ended (hardwareReset s1)
    | (.hung, s1) => .ended s1
    | (.done rx, s1) =>
      let s2 := { s1 with pollcnt := s1.pollcnt + 1 }
      if (toBuffer 1 rx)[0].getLsbD 0 = false then .ready s2
      else if s2.cfg.pollLimit.any (· ≤ s2.pollcnt) then .ended (raise .initTimeout .init s2)
      else
        match delay Config.pollIntervalMs { s2 with seq := .pollWait } with
        | (true, s3) => poll fuel { s3 with seq := .pollRd }
        | (false, s3) => .ended s3

/-- `INIT` after its poll: the two bursts, the decoder, the two configuration writes (R131). -/
def bigLoad (s : State) : State :=
  busPhase .init
    (fun rx1 s1 =>
      busPhase .init
        (fun rx2 s2 =>
          let b1 := toBuffer 26 rx1
          let b2 := toBuffer 8 rx2
          let s3 := { s2 with calbuf2 := b2, cal := decodeCal b1 b2 }
          busPhase .init
            (fun _ s4 =>
              busPhase .init (fun _ s5 => respond .ok 0 { s5 with sstate := .idle }) (wrCtrlMeas (sleepByte s4.cfg) { s4 with seq := .cfgMeasWr }))
            (wrCtrlHum (humByte s3.cfg) { s3 with seq := .cfgHumWr }))
        (rdCal2 { s1 with calbuf1 := toBuffer 26 rx1, seq := .cal2Rd }))
    (rdCal1 { s with seq := .cal1Rd })

/-- `INIT` as one big step with at most `fuel` status reads (R131); `none` if the device is still busy then. -/
def bigInit (fuel : Nat) (s : State) : Option State :=
  let s1 := { s with cmdreg := 0b001#3 }
  if s.sstate = .reset then
    match wrReset s.cfg.vReset { s1 with seq := .resetWr } with
    | (.failed, s2) => some (raise .transportFailure .init s2)
    | (.reset, s2) => some (hardwareReset s2)
    | (.hung, s2) => some s2
    | (.done _, s2) =>
      match poll fuel { s2 with pollcnt := 0, seq := .pollRd } with
      | .ready s3 => some (bigLoad s3)
      | .ended s3 => some s3
      | .busy => none
  else some (raise .refused .dispatch s1)

end Sys2Proof.Machine
end

