-- ==== Sys2Proof/Safety.lean ====
section
/-! DEFINITION. The terms claims are made in: what the bus does in a transaction, said of the state alone; what a safe step is; the
invariant of the machine (spec/10_state.md R34 and what carries it through a command); which registers hold a value. -/

namespace Sys2Proof.Safety

open Sys2Proof.Machine

/-! ### What the bus does next -/

/-- From these scripted answers and this history, the exchanges that send `sent` all succeed and receive `rx`, one byte for each
(spec/20_memory.md R43, R58). -/
def deliversFrom : List Answer → List BusEvent → List Byte → List Byte → Bool
  | _, _, [], [] => true
  | as, h, tx :: sent, r :: rx => nextAnswer as h tx == .ok r && deliversFrom as.tail (h ++ [.xfer tx r]) sent rx
  | _, _, [], _ :: _ => false
  | _, _, _ :: _, [] => false

/-- From these scripted answers and this history, the exchanges that send `sent` succeed with `rx` until the one after them, which gets the
answer `stop` (a failure, `rst` or a hang). -/
def stopsFrom (stop : Answer) : List Answer → List BusEvent → List Byte → List Byte → Bool
  | as, h, tx :: _, [] => nextAnswer as h tx == stop
  | as, h, tx :: sent, r :: rx => nextAnswer as h tx == .ok r && stopsFrom stop as.tail (h ++ [.xfer tx r]) sent rx
  | _, _, [], _ => false

/-- The next transaction, sending `sent`, completes and receives `rx`. -/
abbrev Delivers (s : State) (sent rx : List Byte) : Prop := deliversFrom s.answers (s.hist ++ [.sel false]) sent rx = true

/-- The next transaction, sending `sent`, receives `rx` and then an exchange of it fails (spec/20_memory.md R51). -/
abbrev FailsAfter (s : State) (sent rx : List Byte) : Prop := stopsFrom .fail s.answers (s.hist ++ [.sel false]) sent rx = true

/-- The next transaction, sending `sent`, receives `rx` and then gets the answer `stop` with which `rst` comes: before the next exchange
completes, right after it succeeds (be it the last), or right after it fails (spec/70_reset_and_hazards.md R250; log 5). -/
abbrev ResetAfter (s : State) (sent rx : List Byte) (stop : Answer) : Prop :=
  stop.isReset = true ∧ stopsFrom stop s.answers (s.hist ++ [.sel false]) sent rx = true

/-- The next transaction, sending `sent`, receives `rx` and then an exchange of it never returns
(spec/41_measurement_controller.md R162). -/
abbrev HangsAfter (s : State) (sent rx : List Byte) : Prop := stopsFrom .hang s.answers (s.hist ++ [.sel false]) sent rx = true

/-- The events of the exchange that gets the answer `stop` and ends its transaction: `rst` before it and a hang leave none
(spec/20_memory.md R48). -/
def stopEvents (tx : Byte) : Answer → List BusEvent
  | .ok rx | .okRst rx => [.xfer tx rx]
  | .fail | .failRst => [.xferFail tx]
  | .rst | .hang => []

/-- The events of a complete transaction (spec/20_memory.md R44, R49, R50). -/
def transactionEvents (sent rx : List Byte) : List BusEvent :=
  [.sel false] ++ List.zipWith .xfer sent rx ++ [.sel true]

/-- The events of a transaction whose exchange after `rx` fails: the failing event, then `Sel(1)` (spec/20_memory.md R51). -/
def failureEvents (sent rx : List Byte) : List BusEvent :=
  [.sel false] ++ List.zipWith .xfer sent rx ++ [.xferFail (sent.getD rx.length 0), .sel true]

/-- The state after a complete transaction: the events recorded, the answers used up, nothing else. -/
def afterDone (s : State) (sent rx : List Byte) : State :=
  { s with hist := s.hist ++ transactionEvents sent rx, answers := s.answers.drop rx.length, csn := true }

/-- The state after a failed transaction: the events recorded, the answers used up, nothing else. -/
def afterFailure (s : State) (sent rx : List Byte) : State :=
  { s with hist := s.hist ++ failureEvents sent rx, answers := s.answers.drop (rx.length + 1), csn := true }

/-- The state after `rst` inside a transaction, which came with the answer `stop` once `rx` had been received: no further exchange, the select
line raised, no response, every engine register at its reset value, the host and the device as they were (spec/70_reset_and_hazards.md R250 to
R252). -/
def afterReset (s : State) (sent rx : List Byte) (stop : Answer) : State :=
  { State.resetWith s.cfg with
    hist := s.hist ++ ([.sel false] ++ List.zipWith .xfer sent rx ++ stopEvents (sent.getD rx.length 0) stop ++ [.sel true])
    answers := s.answers.drop (rx.length + 1)
    delays := s.delays
    responses := s.responses
    cmds := s.cmds
    busReq := s.busReq
    busOut := s.busOut }

/-- The state of an engine that hangs inside a transaction, once `rx` has been received: the line is low, no register has changed and nothing
has been answered (spec/41_measurement_controller.md R162, spec/10_state.md R30). -/
def afterHang (s : State) (sent rx : List Byte) : State :=
  { s with
    hist := s.hist ++ ([.sel false] ++ List.zipWith .xfer sent rx)
    answers := s.answers.drop (rx.length + 1)
    csn := false
    hung := true }

/-- A command ended by an error: the `ERRLOG` bit, the response `(status, 0)` and `SEQ = IDLE` (spec/60_exceptions.md R218). -/
def endedBy (e : Error) (bit : BitVec 4) (s : State) : State :=
  { s with errlog := s.errlog ||| bit, seq := .idle, responses := s.responses ++ [{ status := .error e, data := 0 }] }

/-- `i` run on its own is the read of `n` bytes at wire address `a`: its value is the `n` bytes after the discarded one; if an exchange
fails there is no value; `rst` inside it resets; an exchange that never returns hangs (spec/20_memory.md R45, R49, R51,
spec/70_reset_and_hazards.md R250, spec/41_measurement_controller.md R162; log 7 for `busOut`). -/
def ReadsOnBus (i : Instr) (s : State) (a : BitVec 7) (n : Nat) : Prop :=
  (∀ discarded bytes, Delivers s (readFrame a n) (discarded :: bytes) →
    bytes.length = n ∧
      exec i s = .next { afterDone s (readFrame a n) (discarded :: bytes) with busOut := some bytes }) ∧
  (∀ rx, FailsAfter s (readFrame a n) rx → exec i s = .next { afterFailure s (readFrame a n) rx with busOut := none }) ∧
  (∀ rx stop, ResetAfter s (readFrame a n) rx stop → exec i s = .next { afterReset s (readFrame a n) rx stop with busOut := none }) ∧
  (∀ rx, HangsAfter s (readFrame a n) rx → exec i s = .next { afterHang s (readFrame a n) rx with busOut := none })

/-- `i` run on its own is the write of `v` at wire address `a`: it has no value; if an exchange fails it did not complete; `rst` inside it
resets; an exchange that never returns hangs (spec/20_memory.md R47, R50, R51, spec/70_reset_and_hazards.md R250,
spec/41_measurement_controller.md R162; log 7 for `busOut`). -/
def WritesOnBus (i : Instr) (s : State) (a : BitVec 7) (v : Byte) : Prop :=
  (∀ rx, Delivers s (writeFrame a v) rx → exec i s = .next { afterDone s (writeFrame a v) rx with busOut := some [] }) ∧
  (∀ rx, FailsAfter s (writeFrame a v) rx → exec i s = .next { afterFailure s (writeFrame a v) rx with busOut := none }) ∧
  (∀ rx stop, ResetAfter s (writeFrame a v) rx stop → exec i s = .next { afterReset s (writeFrame a v) rx stop with busOut := none }) ∧
  (∀ rx, HangsAfter s (writeFrame a v) rx → exec i s = .next { afterHang s (writeFrame a v) rx with busOut := none })

/-- `i` sends the bytes `sent` in one transaction, as the events it records say: all of them, each in its exchange, when the transaction is
complete, and those up to the failing exchange when one fails (spec/20_memory.md R44, R48, R51). -/
def Sends (i : Instr) (s : State) (sent : List Byte) : Prop :=
  (∀ rx, Delivers s sent rx → ∃ t, exec i s = .next t ∧ t.hist = s.hist ++ transactionEvents sent rx) ∧
  (∀ rx, FailsAfter s sent rx → ∃ t, exec i s = .next t ∧ t.hist = s.hist ++ failureEvents sent rx)

/-- The bytes the transaction of a bus phase sends (spec/30_encoding.md R75, R76, R78 to R80); no other phase has one. -/
def phaseFrame (s : State) : Instr → Option (List Byte)
  | .seqResetWr => some (writeFrame (wireAddr s.cfg.aReset) s.cfg.vReset)
  | .seqPollRd => some (readFrame (wireAddr s.cfg.aStatus) 1)
  | .seqCal1Rd => some (readFrame (wireAddr s.cfg.aCal1) 26)
  | .seqCal2Rd => some (readFrame (wireAddr s.cfg.aCal2) 8)
  | .seqCfgHumWr => some (writeFrame (wireAddr s.cfg.aCtrlHum) (humByte s.cfg))
  | .seqCfgMeasWr => some (writeFrame (wireAddr s.cfg.aCtrlMeas) (sleepByte s.cfg))
  | .seqForceRd => some (readFrame (wireAddr s.cfg.aCtrlMeas) 1)
  | .seqForceWr => some (writeFrame (wireAddr s.cfg.aCtrlMeas) (forcedByte s.mreg))
  | .seqDataRd => some (readFrame (wireAddr s.cfg.aData) 8)
  | _ => none

/-- The phases that touch the bus: `RESET_WR`, `POLL_RD`, `CAL1_RD`, `CAL2_RD`, `CFG_HUM_WR`, `CFG_MEAS_WR`, `FORCE_RD`, `FORCE_WR`,
`DATA_RD` (spec/60_exceptions.md R211). -/
def busPhases : List Phase :=
  [.resetWr, .pollRd, .cal1Rd, .cal2Rd, .cfgHumWr, .cfgMeasWr, .forceRd, .forceWr, .dataRd]

/-- Every successor of a phase, on success and on error (spec/41_measurement_controller.md R161). -/
def successors : Phase → List Phase
  | .idle => [.resetWr, .forceRd, .dataRd, .idle]
  | .resetWr => [.pollRd, .idle]
  | .pollRd => [.cal1Rd, .pollWait, .idle]
  | .pollWait => [.pollRd]
  | .cal1Rd => [.cal2Rd, .idle]
  | .cal2Rd => [.calDecode, .idle]
  | .calDecode => [.cfgHumWr]
  | .cfgHumWr => [.cfgMeasWr, .idle]
  | .cfgMeasWr => [.idle]
  | .forceRd => [.forceWr, .idle]
  | .forceWr => [.idle]
  | .dataRd => [.rawDecode, .idle]
  | .rawDecode => [.compT]
  | .compT => [.compP]
  | .compP => [.compH]
  | .compH => [.idle]

/-- Every change of `SSTATE` a step makes, with the phase that makes it (spec/41_measurement_controller.md R154, R161): from, to. -/
def sstateChanges : Phase → List (SState × SState)
  | .idle => [(.measuring, .idle), (.dataReady, .idle)]
  | .resetWr | .pollRd | .cal1Rd | .cal2Rd | .cfgHumWr => [(.reset, .failed)]
  | .cfgMeasWr => [(.reset, .idle), (.reset, .failed)]
  | .forceWr => [(.idle, .measuring)]
  | .compH => [(.idle, .dataReady), (.measuring, .dataReady)]
  | .pollWait | .calDecode | .forceRd | .dataRd | .rawDecode | .compT | .compP => []

/-! ### Numbers -/

/-- A little-endian pair as a number: `buf[k+1] * 256 + buf[k]` (spec/30_encoding.md R83). -/
def le16 (lo hi : Byte) : Nat := hi.toNat * 256 + lo.toNat

/-- `sext_N(v)`: `v` when `v < 2^(N-1)`, else `v - 2^N` (spec/00_scope.md R8). -/
def sext (n : Nat) (v : Nat) : Int := if v < 2 ^ (n - 1) then v else (v : Int) - 2 ^ n

/-! ### Steps -/

/-- The next step runs the phase in `SEQ`: the configuration is one the model takes, `rst` is not asserted, the engine does not hang in a
call, and no transaction is placed from outside. -/
abbrev Runs (s : State) : Prop := s.cfg.ok = true ∧ s.rst = false ∧ s.hung = false ∧ s.busReq = none

/-- No hardware reset comes in the next step: the pin is low and with no answer scripted comes `rst`. -/
abbrev NoReset (s : State) : Prop := s.rst = false ∧ ∀ a ∈ s.answers, a.isReset = false

/-- A safe step: it answers a next state. -/
def Safe (s : State) : Prop := ∃ t, step s = .next t

/-! ### The bus history is framed -/

/-- Whether the select line is low after an event, `none` if the event cannot come there: the framing invariant of spec/20_memory.md
R44, "chip-select assertion/deassertion must bracket every transaction with no possibility of a second transaction
interleaving". -/
def lineAfter (low : Bool) : BusEvent → Option Bool
  | .sel false => if low then none else some true
  | .sel true => if low then some false else none
  | .xfer _ _ => if low then some true else none
  | .xferFail _ => if low then some true else none
  | .delay _ => if low then none else some false

/-- The select line after a sequence of events that keeps to the framing. -/
def lineAfterAll : Bool → List BusEvent → Option Bool
  | low, [] => some low
  | low, e :: es => (lineAfter low e).bind (lineAfterAll · es)

/-- The history keeps to the framing and leaves the line as `csn` says. -/
def Framed (hist : List BusEvent) (csn : Bool) : Prop := lineAfterAll false hist = some (!csn)

/-! ### The invariant -/

/-- What `SEQ` says of `SSTATE` and `CMDREG`: an `INIT` phase runs in `Reset`, a `FORCE` phase in `Idle`, a fetch phase in `Idle` or
`Measuring`, each with its command latched (spec/41_measurement_controller.md R130, R161). -/
def phaseAgrees (p : Phase) (x : SState) (c : BitVec 3) : Prop :=
  match p with
  | .idle => True
  | .resetWr | .pollRd | .pollWait | .cal1Rd | .cal2Rd | .calDecode | .cfgHumWr | .cfgMeasWr => x = .reset ∧ c = 0b001#3
  | .forceRd | .forceWr => x = .idle ∧ c = 0b010#3
  | .dataRd | .rawDecode | .compT | .compP | .compH =>
    (x = .idle ∨ x = .measuring) ∧ (c = 0b100#3 ∨ c = 0b101#3 ∨ c = 0b110#3)

/-- A 16-bit register holds a sign-extended 12-bit value (spec/10_state.md R19, `H4` and `H5`). -/
abbrev In12 (x : BitVec 16) : Prop := -2048 ≤ x.toInt ∧ x.toInt ≤ 2047

/-- The invariant every step keeps: spec/10_state.md R34 where it speaks of values, and what carries it from phase to phase. -/
structure Inv (s : State) : Prop where
  /-- R34 (a), R30: between steps the line is high, unless the engine hangs inside a transaction -/
  select : s.csn = true ∨ s.hung = true
  /-- spec/20_memory.md R44 -/
  framed : Framed s.hist s.csn
  /-- spec/41_measurement_controller.md R130, R161 -/
  phase : phaseAgrees s.seq s.sstate s.cmdreg
  /-- R34 (b), spec/70_reset_and_hazards.md R264: the coefficients in use are those `CAL_DECODE` decoded -/
  calibrated : s.calvalid = true ∨ s.seq = .cfgHumWr ∨ s.seq = .cfgMeasWr → s.cal = decodeCal s.calbuf1 s.calbuf2
  /-- R34 (c), spec/42_compensation_engine.md R188: what the fetch has computed so far belongs to its raw counts -/
  temperature : s.seq = .compP ∨ s.seq = .compH ∨ s.sstate = .dataReady →
    s.tfine = compTfine s.rawT s.cal ∧ s.outT = compOutT s.tfine
  /-- R34 (c) -/
  pressure : s.seq = .compH ∨ s.sstate = .dataReady → s.outP = compOutP s.rawP s.tfine s.cal
  /-- R34 (c) -/
  humidity : s.sstate = .dataReady → s.outH = compOutH s.rawH s.tfine s.cal
  /-- R34 (d) -/
  failed : s.sstate = .failed → s.errlog.getLsbD 0 = true ∨ s.errlog.getLsbD 1 = true
  /-- R34 (e), R17 -/
  outH : s.outH.toNat ≤ 102400
  /-- R19, R122 -/
  h4 : In12 s.cal.h4
  /-- R19, R122 -/
  h5 : In12 s.cal.h5
  /-- spec/41_measurement_controller.md R133: "at most `N` status reads" -/
  polls : s.seq = .pollRd ∨ s.seq = .pollWait → ∀ limit, s.cfg.pollLimit = some limit → s.pollcnt < limit

/-! ### Which registers hold a value -/

/-- Two states that agree on the parameters, on the environment, and on every engine register that holds a value where the controller
stands. A register that has not been written since reset (spec/10_state.md R18, R35) or whose contents have "no meaning" any more
(R28, R29) may differ. -/
structure AgreeOnLive (s t : State) : Prop where
  cfg : s.cfg = t.cfg
  sstate : s.sstate = t.sstate
  errlog : s.errlog = t.errlog
  seq : s.seq = t.seq
  csn : s.csn = t.csn
  hist : s.hist = t.hist
  responses : s.responses = t.responses
  cmds : s.cmds = t.cmds
  answers : s.answers = t.answers
  delays : s.delays = t.delays
  rst : s.rst = t.rst
  hung : s.hung = t.hung
  busReq : s.busReq = t.busReq
  busOut : s.busOut = t.busOut
  cmdreg : s.seq ≠ .idle → s.cmdreg = t.cmdreg
  pollcnt : s.seq = .pollRd ∨ s.seq = .pollWait → s.pollcnt = t.pollcnt
  mreg : s.seq = .forceWr → s.mreg = t.mreg
  calbuf1 : s.seq = .cal2Rd ∨ s.seq = .calDecode → s.calbuf1 = t.calbuf1
  calbuf2 : s.seq = .calDecode → s.calbuf2 = t.calbuf2
  databuf : s.seq = .rawDecode → s.databuf = t.databuf
  cal : s.calvalid = true ∨ s.seq = .cfgHumWr ∨ s.seq = .cfgMeasWr → s.cal = t.cal
  rawT : s.seq = .compT → s.rawT = t.rawT
  rawP : s.seq = .compT ∨ s.seq = .compP → s.rawP = t.rawP
  rawH : s.seq = .compT ∨ s.seq = .compP ∨ s.seq = .compH → s.rawH = t.rawH
  tfine : s.seq = .compP ∨ s.seq = .compH → s.tfine = t.tfine
  outT : s.seq = .compP ∨ s.seq = .compH ∨ s.sstate = .dataReady → s.outT = t.outT
  outP : s.seq = .compH ∨ s.sstate = .dataReady → s.outP = t.outP
  outH : s.sstate = .dataReady → s.outH = t.outH

end Sys2Proof.Safety
end

