-- ==== Sys2Proof/Certificates/Slice0/Obligations.lean ====
section
/-! DEFINITION. The statements for the provers. -/

open Sys2Proof Sys2Proof.Machine Sys2Proof.Safety

/-! ### Encodings -/

/-- Words written out from the encodings of spec/30_encoding.md R72, R73 (format H), R88 (format U) and R74, R75 (format A, default column)
decode to the operations they stand for. -/
def Obligations.EncodedWordsDecode : Prop :=
  decode Config.default (.command 0b000#3) = .ok .reserved000 ∧
  decode Config.default (.command 0b001#3) = .ok .init ∧
  decode Config.default (.command 0b010#3) = .ok .force ∧
  decode Config.default (.command 0b100#3) = .ok .getT ∧
  decode Config.default (.command 0b110#3) = .ok .getH ∧
  decode Config.default (.phase 0x1#4) = .ok .seqResetWr ∧
  decode Config.default (.phase 0x6#4) = .ok .seqCalDecode ∧
  decode Config.default (.phase 0xE#4) = .ok .seqCompP ∧
  decode Config.default (.frame [0x60#8, 0xB6#8]) = .ok (.busWrReset 0xB6#8) ∧
  decode Config.default (.frame [0xF3#8, 0x00#8]) = .ok .busRdStatus ∧
  decode Config.default (.frame [0x74#8, 0x25#8]) = .ok (.busWrCtrlMeas 0x25#8) ∧
  decode Config.default (.frame [0xD0#8, 0x00#8, 0x00#8]) = .ok (.busRead 0x50#7 2)

/-- Every well-formed operation is what the decoder reads from its code, with every operand, in every configuration in which an address
names one transaction. -/
def Obligations.DecodeOfEncode : Prop :=
  ∀ (cfg : Config) (i : Instr), cfg.addrsDistinct = true → wellFormed cfg i = true → decode cfg (encode cfg i) = .ok i

/-- Every code the decoder takes is the code of the operation it gives: no two codes are one operation. No hypothesis on the
configuration. -/
def Obligations.EncodeOfDecode : Prop :=
  ∀ (cfg : Config) (code : Code) (i : Instr), decode cfg code = .ok i → encode cfg i = code

/-- The decoder refuses exactly the byte lists that are no transaction, each by its name: no byte, no data byte, a read that sends something
else than `DUMMY`, a write of more than one byte (spec/20_memory.md R44, R46, R47). Every command code, every phase code, every read of at least
one byte at any address and every write of one byte decodes: "in format `A` ... the model has nothing to refuse" (spec/30_encoding.md R94), and
that byte lists which are no transaction can be given to the decoder at all is the model's choice (log 8). -/
def Obligations.DecodeRefusesExactlyMalformedFrames : Prop :=
  ∀ (cfg : Config) (code : Code) (e : DecodeError), decode cfg code = .error e ↔
    (code = .frame [] ∧ e = .emptyFrame) ∨
    (∃ b, code = .frame [b] ∧ e = .noDataByte) ∨
    (∃ b d ds, code = .frame (b :: d :: ds) ∧
      ((b.msb = true ∧ (∃ x ∈ d :: ds, x ≠ 0x00#8) ∧ e = .readSendsData) ∨
       (b.msb = false ∧ ds ≠ [] ∧ e = .writeLength)))

/-- The address byte is `0x80 | a[6:0]` for a read and `a[6:0]` for a write (spec/30_encoding.md R74), and the payloads are
`0b00000 || OSRS_H`, `OSRS_T || OSRS_P || 0b00` and `(m & 0xFC) | 0x01` (R78, R79, R80). -/
def Obligations.AddressAndPayloadBytes : Prop :=
  (∀ a : Byte, addressByte true (wireAddr a) = 0x80#8 ||| a ∧ addressByte false (wireAddr a) = a &&& 0x7F#8) ∧
  (∀ cfg : Config, (humByte cfg).toNat = cfg.osrsH.toNat ∧
    (sleepByte cfg).toNat = cfg.osrsT.toNat * 32 + cfg.osrsP.toNat * 4) ∧
  (∀ m : Byte, forcedByte m = (m &&& 0xFC#8) ||| 0x01#8)

/-- What each bus phase sends with the default parameters, as the events it records when its transaction is complete and when an exchange
of it fails: the address byte and the data bytes of the table of spec/30_encoding.md R75 (R76, R78 to R80). -/
def Obligations.DefaultTransactionTable : Prop :=
  ∀ s : State, s.cfg = Config.default →
    Sends .seqResetWr s [0x60#8, 0xB6#8] ∧
    Sends .seqPollRd s [0xF3#8, 0x00#8] ∧
    Sends .seqCal1Rd s (0x88#8 :: List.replicate 26 0x00#8) ∧
    Sends .seqCal2Rd s (0xE1#8 :: List.replicate 8 0x00#8) ∧
    Sends .seqCfgHumWr s [0x72#8, 0x01#8] ∧
    Sends .seqCfgMeasWr s [0x74#8, 0x24#8] ∧
    Sends .seqForceRd s [0xF4#8, 0x00#8] ∧
    Sends .seqForceWr s [0x74#8, (s.mreg &&& 0xFC#8) ||| 0x01#8] ∧
    Sends .seqDataRd s (0xF7#8 :: List.replicate 8 0x00#8)

/-! ### Steps -/

/-- A step runs the decoded operation: the phase in `SEQ`; in `IDLE`, the command the host presents, which leaves the host's list; a
transaction placed from outside, which is taken away (logs 6 and 7). In `IDLE` with no command the step changes nothing. -/
def Obligations.StepRunsDecodedOperation : Prop :=
  (∀ (s : State) (i : Instr), Runs s → decode s.cfg (.phase s.seq.code) = .ok i → step s = exec i s) ∧
  (∀ (s : State) (c : BitVec 3) (cs : List (BitVec 3)) (i : Instr), Runs s → s.seq = .idle → s.cmds = c :: cs →
    decode s.cfg (.command c) = .ok i → step s = exec i { s with cmds := cs }) ∧
  (∀ s : State, Runs s → s.seq = .idle → s.cmds = [] → step s = .next s) ∧
  (∀ (s : State) (tr : Transaction) (i : Instr), s.cfg.ok = true → s.rst = false → s.hung = false → s.busReq = some tr →
    decode s.cfg (.frame (sentBytes tr)) = .ok i → step s = exec i { s with busReq := none })

/-- Where a step stops or makes no progress. It refuses a configuration that breaks spec/20_memory.md R41 or has `POLL_LIMIT = 0` (log 12), and
answers no other refusal. An engine that hangs in a call stays as it is (spec/41_measurement_controller.md R162 "hangs the engine in the phase
that called it"; log 15). -/
def Obligations.StepStops : Prop :=
  (∀ s : State,
    0xFF < s.cfg.aCal1.toNat + 25 ∨ 0xFF < s.cfg.aCal2.toNat + 7 ∨ 0xFF < s.cfg.aData.toNat + 7 ∨ s.cfg.pollLimit = some 0 →
    step s = .refused .configuration) ∧
  (∀ (s : State) (r : Refusal), step s = .refused r → r = .configuration ∧
    (0xFF < s.cfg.aCal1.toNat + 25 ∨ 0xFF < s.cfg.aCal2.toNat + 7 ∨ 0xFF < s.cfg.aData.toNat + 7 ∨ s.cfg.pollLimit = some 0)) ∧
  (∀ s : State, s.cfg.ok = true → s.rst = false → s.hung = true → step s = .next s)

/-- Every step answers a next state, in every configuration the model takes, whatever the state, the host and the bus do: a failed exchange is a
response, `rst` a reset, and a transport that blocks for ever leaves the engine hung in its phase, a state in which a step changes nothing
(spec/41_measurement_controller.md R162; log 15). -/
def Obligations.EveryStepIsSafe : Prop :=
  ∀ s : State, s.cfg.ok = true → Safe s

/-! ### Reset -/

/-- The state after reset where the spec gives a value (spec/10_state.md R35, spec/70_reset_and_hazards.md R251): `SSTATE`, `ERRLOG`, `SEQ`,
`CSN`, `POLLCNT` and the views `FRESH` and `CALVALID`. The other registers hold 0, DESIGN CHOICE (log 2): nothing is said of them. -/
def Obligations.ResetState : Prop :=
  ∀ cfg : Config,
    let s := State.resetWith cfg
    s.sstate.code = 0b000#3 ∧ s.errlog = 0b0000#4 ∧ s.seq.code = 0x0#4 ∧ s.csn = true ∧ s.pollcnt = 0 ∧
      s.fresh = false ∧ s.calvalid = false ∧ State.reset = State.resetWith Config.default

/-- An asserted `rst` puts the engine into the reset state whatever it was doing, also where it hangs in a call: no response is given, an open
transaction's select line goes inactive and no byte is exchanged, and the host, the device and the parameters are as they were
(spec/70_reset_and_hazards.md R250, R252). That `rst` is a pulse is log 5; that the line going inactive adds the event `Sel(1)` is log 20. -/
def Obligations.HardwareResetByPin : Prop :=
  ∀ s : State, s.cfg.ok = true → s.rst = true →
    step s = .next { State.resetWith s.cfg with
      hist := if s.csn then s.hist else s.hist ++ [.sel true]
      responses := s.responses
      cmds := s.cmds
      answers := s.answers
      delays := s.delays
      busReq := s.busReq
      busOut := s.busOut }

/-- What else than success or failure can come of the transaction of any bus phase. `rst` at any point of it, be it after the last exchange or
after a failed one: the command is abandoned without a response, the select line goes inactive without further transfers, the engine is in
its reset state (spec/70_reset_and_hazards.md R250; logs 5 and 20). An exchange that never returns: the engine stays in the phase, the line low,
with no register changed (spec/41_measurement_controller.md R162; log 15). -/
def Obligations.ResetOrHangInsideTransaction : Prop :=
  ∀ (s : State) (i : Instr) (sent rx : List Byte), phaseFrame s i = some sent →
    (∀ stop, ResetAfter s sent rx stop → exec i s = .next (afterReset s sent rx stop)) ∧
    (HangsAfter s sent rx → exec i s = .next (afterHang s sent rx))

/-! ### The bus -/

/-- A transaction, whatever bytes it sends: if all exchanges succeed it is `Sel(0)`, one exchange a byte, `Sel(1)`, and it receives one byte
a byte; if one fails, that one is recorded as failed, no further exchange is made, and `Sel(1)` stands all the same
(spec/20_memory.md R44, R49 to R51). Nothing but the history, the line and the answers used changes. -/
def Obligations.TransactionEvents : Prop :=
  ∀ (s : State) (sent : List Byte),
    (∀ rx, Delivers s sent rx → transact sent s = (.done rx, afterDone s sent rx)) ∧
    (∀ rx, FailsAfter s sent rx → transact sent s = (.failed, afterFailure s sent rx))

/-- A transaction has one of four outcomes, whatever the device answers, and each with the state after it: it is complete; an exchange fails
(spec/20_memory.md R51); `rst` cuts it off, and what the hardware reset makes of it is the reset state with the transaction closed
(spec/70_reset_and_hazards.md R250; logs 5 and 20); or an exchange never returns (spec/41_measurement_controller.md R162; log 15). -/
def Obligations.TransactionOutcomes : Prop :=
  ∀ (s : State) (sent : List Byte),
    (∃ rx, rx.length = sent.length ∧ Delivers s sent rx ∧ transact sent s = (.done rx, afterDone s sent rx)) ∨
    (∃ rx, rx.length < sent.length ∧ FailsAfter s sent rx ∧ transact sent s = (.failed, afterFailure s sent rx)) ∨
    (∃ rx stop t, rx.length < sent.length ∧ ResetAfter s sent rx stop ∧ transact sent s = (.reset, t) ∧
      hardwareReset t = afterReset s sent rx stop) ∨
    (∃ rx, rx.length < sent.length ∧ HangsAfter s sent rx ∧ transact sent s = (.hung, afterHang s sent rx))

/-- The six read transactions run on their own (`BUS.READ`, `BUS.RD_STATUS`, `BUS.RD_CAL1`, `BUS.RD_CAL2`, `BUS.RD_CTRL_MEAS`, `BUS.RD_DATA`):
they complete with the bytes read, fail, are cut off by `rst` (spec/70_reset_and_hazards.md R250; logs 5 and 20), or hang
(spec/41_measurement_controller.md R162; log 15). spec/20_memory.md R49 defines `BusRead(a, n)` for `1 <= n`; that a read of no byte is refused is
the model's choice (log 19), and so is where the value goes (log 7). -/
def Obligations.ReadTransactions : Prop :=
  ∀ s : State,
    (∀ a n, 1 ≤ n → ReadsOnBus (.busRead a n) s a n) ∧
    (∀ a, exec (.busRead a 0) s = .refused .emptyRead) ∧
    ReadsOnBus .busRdStatus s (wireAddr s.cfg.aStatus) 1 ∧
    ReadsOnBus .busRdCal1 s (wireAddr s.cfg.aCal1) 26 ∧
    ReadsOnBus .busRdCal2 s (wireAddr s.cfg.aCal2) 8 ∧
    ReadsOnBus .busRdCtrlMeas s (wireAddr s.cfg.aCtrlMeas) 1 ∧
    ReadsOnBus .busRdData s (wireAddr s.cfg.aData) 8

/-- The four write transactions run on their own (`BUS.WRITE`, `BUS.WR_RESET`, `BUS.WR_CTRL_HUM`, `BUS.WR_CTRL_MEAS`), with every payload:
they complete, fail, are cut off by `rst` (spec/70_reset_and_hazards.md R250; logs 5 and 20), or hang (spec/41_measurement_controller.md R162; log
15). Where the outcome goes is the model's own (log 7). -/
def Obligations.WriteTransactions : Prop :=
  ∀ (s : State) (v : Byte),
    (∀ a, WritesOnBus (.busWrite a v) s a v) ∧
    WritesOnBus (.busWrReset v) s (wireAddr s.cfg.aReset) v ∧
    WritesOnBus (.busWrCtrlHum v) s (wireAddr s.cfg.aCtrlHum) v ∧
    WritesOnBus (.busWrCtrlMeas v) s (wireAddr s.cfg.aCtrlMeas) v

/-! ### Dispatch of the host's commands -/

/-- `IDLE` with a command presented dispatches it by its code, and the host's list loses it; with none presented it waits
(spec/41_measurement_controller.md R130, spec/70_reset_and_hazards.md R254, R268). `SEQ.IDLE` completes in every state. -/
def Obligations.IdleTakesCommand : Prop :=
  (∀ s : State, s.cmds = [] → exec .seqIdle s = .next s) ∧
  (∀ (s : State) (c : BitVec 3) (cs : List (BitVec 3)), s.cmds = c :: cs →
    exec .seqIdle s = exec (decodeCommand c) { s with cmds := cs } ∧ ∃ t, exec .seqIdle s = .next t)

/-- `INIT` is accepted in `Reset`: `CMDREG` takes its code and `SEQ <- RESET_WR`; in every other state it is `Refused`
(spec/41_measurement_controller.md R130 case 2). Nothing else changes. -/
def Obligations.InitDispatch : Prop :=
  ∀ s : State,
    (s.sstate = .reset → exec .init s = .next { s with cmdreg := 0b001#3, seq := .resetWr }) ∧
    (s.sstate ≠ .reset → exec .init s = .next (endedBy .refused 0b1000#4 { s with cmdreg := 0b001#3 }))

/-- `FORCE` is accepted in `Idle`, `Measuring` and `DataReady`: the cached results are invalid from here on (`SSTATE <- Idle`) and
`SEQ <- FORCE_RD`; in `Reset` and `Failed` it is `NotCalibrated` (spec/41_measurement_controller.md R130 case 3). The results, the raw counts
and the coefficients stay. -/
def Obligations.ForceDispatch : Prop :=
  ∀ s : State,
    (s.sstate = .idle ∨ s.sstate = .measuring ∨ s.sstate = .dataReady →
      exec .force s = .next { s with cmdreg := 0b010#3, sstate := .idle, seq := .forceRd }) ∧
    (s.sstate = .reset ∨ s.sstate = .failed →
      exec .force s = .next (endedBy .notCalibrated 0b0100#4 { s with cmdreg := 0b010#3 }))

/-- `GET_T`, `GET_P`, `GET_H`: in `DataReady` the cached word at once, with no bus event; in `Idle` and `Measuring` the fetch starts; in
`Reset` and `Failed` `NotCalibrated` (spec/41_measurement_controller.md R130 case 4). Nothing else changes. -/
def Obligations.AccessorDispatch : Prop :=
  ∀ s : State, ∀ p ∈ [(Instr.getT, 0b100#3, s.outT), (Instr.getP, 0b101#3, s.outP), (Instr.getH, 0b110#3, s.outH)],
    (s.sstate = .dataReady → exec p.1 s = .next { s with
      cmdreg := p.2.1, seq := .idle, responses := s.responses ++ [{ status := .ok, data := p.2.2 }] }) ∧
    (s.sstate = .idle ∨ s.sstate = .measuring → exec p.1 s = .next { s with cmdreg := p.2.1, seq := .dataRd }) ∧
    (s.sstate = .reset ∨ s.sstate = .failed →
      exec p.1 s = .next (endedBy .notCalibrated 0b0100#4 { s with cmdreg := p.2.1 }))

/-- The three reserved codes (`RESERVED_000`, `RESERVED_011`, `RESERVED_111`) are answered `Refused` in every state and have no other effect
than `CMDREG` and the `ERRLOG` bit (spec/30_encoding.md R73, spec/41_measurement_controller.md R130 case 1). -/
def Obligations.ReservedCodesRefused : Prop :=
  ∀ s : State,
    exec .reserved000 s = .next (endedBy .refused 0b1000#4 { s with cmdreg := 0b000#3 }) ∧
    exec .reserved011 s = .next (endedBy .refused 0b1000#4 { s with cmdreg := 0b011#3 }) ∧
    exec .reserved111 s = .next (endedBy .refused 0b1000#4 { s with cmdreg := 0b111#3 })

/-- "`NotCalibrated` and `Refused` change nothing but `ERRLOG` and `CMDREG`" (spec/60_exceptions.md R222): whenever the dispatch of a command
ends with one of them, every register but those two, `SEQ` (which `respond` sets to `IDLE`), the host's list and its responses is as it was;
in particular no bus event occurs. -/
def Obligations.DispatchErrorsChangeOnlyErrlogAndCmdreg : Prop :=
  ∀ (s t : State) (c : BitVec 3) (cs : List (BitVec 3)) (e : Error) (data : Word), s.cmds = c :: cs → exec .seqIdle s = .next t →
    t.responses = s.responses ++ [{ status := .error e, data := data }] →
    (e = .notCalibrated ∨ e = .refused) ∧
      t = { s with cmds := cs, cmdreg := c, seq := .idle, responses := t.responses, errlog := logError s.errlog e }

/-! ### The phases of `INIT` -/

/-- `RESET_WR`: writes `V_RESET` to `A_RESET`, `POLLCNT <- 0`, `SEQ <- POLL_RD`; a failed exchange ends `INIT` with `TransportFailure`
(spec/41_measurement_controller.md R132, spec/60_exceptions.md R219). -/
def Obligations.ResetWrPhase : Prop :=
  ∀ s : State,
    let sent := writeFrame (wireAddr s.cfg.aReset) s.cfg.vReset
    (∀ rx, Delivers s sent rx → exec .seqResetWr s = .next { afterDone s sent rx with pollcnt := 0, seq := .pollRd }) ∧
    (∀ rx, FailsAfter s sent rx →
      exec .seqResetWr s = .next (endedBy .transportFailure 0b0001#4 { afterFailure s sent rx with sstate := .failed }))

/-- `POLL_RD`: one status read, `POLLCNT` counts it; bit 0 clear: `SEQ <- CAL1_RD`; set, and the bound not reached: `SEQ <- POLL_WAIT`; set at
the bound: `InitTimeout`. The other seven bits have no influence. A failed exchange is `TransportFailure`, even on the last permitted poll
(spec/41_measurement_controller.md R133, spec/30_encoding.md R77, spec/60_exceptions.md R212, R224; log 13 for `POLLCNT` on a timeout). -/
def Obligations.PollRdPhase : Prop :=
  ∀ s : State,
    let sent := readFrame (wireAddr s.cfg.aStatus) 1
    (∀ x b, Delivers s sent [x, b] → b.getLsbD 0 = false →
      exec .seqPollRd s = .next { afterDone s sent [x, b] with pollcnt := s.pollcnt + 1, seq := .cal1Rd }) ∧
    (∀ x b, Delivers s sent [x, b] → b.getLsbD 0 = true → (∀ limit, s.cfg.pollLimit = some limit → s.pollcnt + 1 < limit) →
      exec .seqPollRd s = .next { afterDone s sent [x, b] with pollcnt := s.pollcnt + 1, seq := .pollWait }) ∧
    (∀ x b limit, Delivers s sent [x, b] → b.getLsbD 0 = true → s.cfg.pollLimit = some limit → limit ≤ s.pollcnt + 1 →
      exec .seqPollRd s = .next (endedBy .initTimeout 0b0010#4
        { afterDone s sent [x, b] with pollcnt := s.pollcnt + 1, sstate := .failed })) ∧
    (∀ rx, FailsAfter s sent rx →
      exec .seqPollRd s = .next (endedBy .transportFailure 0b0001#4 { afterFailure s sent rx with sstate := .failed }))

/-- `POLL_WAIT`: the event `Delay(2)` and `SEQ <- POLL_RD`, nothing else (spec/41_measurement_controller.md R134); where the `Delay` never returns, the
engine hangs in `POLL_WAIT` (R162). Whether a `Delay` returns is the model's script `delays` (log 15). -/
def Obligations.PollWaitPhase : Prop :=
  ∀ s : State,
    (s.delays.headD true = true →
      exec .seqPollWait s = .next { s with hist := s.hist ++ [.delay 2], delays := s.delays.tail, seq := .pollRd }) ∧
    (s.delays.headD true = false →
      exec .seqPollWait s = .next { s with hist := s.hist ++ [.delay 2], delays := s.delays.tail, hung := true })

/-- `CAL1_RD` and `CAL2_RD`: one burst of 26 and of 8 bytes into `CALBUF1` and `CALBUF2`, then the successor; a failed exchange leaves the
buffer as it was and ends `INIT` (spec/41_measurement_controller.md R135, R136, spec/60_exceptions.md R219). -/
def Obligations.CalibrationBurstPhases : Prop :=
  ∀ s : State,
    let sent1 := readFrame (wireAddr s.cfg.aCal1) 26
    let sent2 := readFrame (wireAddr s.cfg.aCal2) 8
    (∀ (x : Byte) (block : Vector Byte 26), Delivers s sent1 (x :: block.toList) →
      exec .seqCal1Rd s = .next { afterDone s sent1 (x :: block.toList) with calbuf1 := block, seq := .cal2Rd }) ∧
    (∀ rx, FailsAfter s sent1 rx →
      exec .seqCal1Rd s = .next (endedBy .transportFailure 0b0001#4 { afterFailure s sent1 rx with sstate := .failed })) ∧
    (∀ (x : Byte) (block : Vector Byte 8), Delivers s sent2 (x :: block.toList) →
      exec .seqCal2Rd s = .next { afterDone s sent2 (x :: block.toList) with calbuf2 := block, seq := .calDecode }) ∧
    (∀ rx, FailsAfter s sent2 rx →
      exec .seqCal2Rd s = .next (endedBy .transportFailure 0b0001#4 { afterFailure s sent2 rx with sstate := .failed }))

/-- `CFG_HUM_WR` writes `0b00000 || OSRS_H` to `A_CTRL_HUM` and goes on to `CFG_MEAS_WR`, which writes `OSRS_T || OSRS_P || MODE_SLEEP` to
`A_CTRL_MEAS`, sets `SSTATE <- Idle` and answers `OK` with data 0; a failed exchange ends `INIT` (spec/41_measurement_controller.md R138,
R139). -/
def Obligations.ConfigurationPhases : Prop :=
  ∀ s : State,
    let sentHum := writeFrame (wireAddr s.cfg.aCtrlHum) (0b00000#5 ++ s.cfg.osrsH)
    let sentMeas := writeFrame (wireAddr s.cfg.aCtrlMeas) (s.cfg.osrsT ++ s.cfg.osrsP ++ 0b00#2)
    (∀ rx, Delivers s sentHum rx → exec .seqCfgHumWr s = .next { afterDone s sentHum rx with seq := .cfgMeasWr }) ∧
    (∀ rx, FailsAfter s sentHum rx →
      exec .seqCfgHumWr s = .next (endedBy .transportFailure 0b0001#4 { afterFailure s sentHum rx with sstate := .failed })) ∧
    (∀ rx, Delivers s sentMeas rx → exec .seqCfgMeasWr s = .next { afterDone s sentMeas rx with
      sstate := .idle, seq := .idle, responses := s.responses ++ [{ status := .ok, data := 0 }] }) ∧
    (∀ rx, FailsAfter s sentMeas rx →
      exec .seqCfgMeasWr s = .next (endedBy .transportFailure 0b0001#4 { afterFailure s sentMeas rx with sstate := .failed }))

/-! ### The calibration decoder -/

/-- `CAL_DECODE`: `CAL <- decode(CALBUF1, CALBUF2)`, `SEQ <- CFG_HUM_WR`, nothing else: no bus event and no error
(spec/41_measurement_controller.md R137). What `decode` gives is the next two statements' matter. -/
def Obligations.CalDecodePhase : Prop :=
  ∀ s : State, exec .seqCalDecode s = .next { s with cal := decodeCal s.calbuf1 s.calbuf2, seq := .cfgHumWr }

/-- The temperature and pressure coefficients `CAL_DECODE` writes, as numbers (spec/40_calibration_decoder.md R101 to R112). The spec marks
their signedness and offsets "[from general knowledge, not in source]" (log 11). -/
def Obligations.TemperatureAndPressureCoefficients : Prop :=
  ∀ s : State, ∃ c : Cal, exec .seqCalDecode s = .next { s with cal := c, seq := .cfgHumWr } ∧
    c.t1.toNat = le16 s.calbuf1[0] s.calbuf1[1] ∧
    c.t2.toInt = sext 16 (le16 s.calbuf1[2] s.calbuf1[3]) ∧
    c.t3.toInt = sext 16 (le16 s.calbuf1[4] s.calbuf1[5]) ∧
    c.p1.toNat = le16 s.calbuf1[6] s.calbuf1[7] ∧
    c.p2.toInt = sext 16 (le16 s.calbuf1[8] s.calbuf1[9]) ∧
    c.p3.toInt = sext 16 (le16 s.calbuf1[10] s.calbuf1[11]) ∧
    c.p4.toInt = sext 16 (le16 s.calbuf1[12] s.calbuf1[13]) ∧
    c.p5.toInt = sext 16 (le16 s.calbuf1[14] s.calbuf1[15]) ∧
    c.p6.toInt = sext 16 (le16 s.calbuf1[16] s.calbuf1[17]) ∧
    c.p7.toInt = sext 16 (le16 s.calbuf1[18] s.calbuf1[19]) ∧
    c.p8.toInt = sext 16 (le16 s.calbuf1[20] s.calbuf1[21]) ∧
    c.p9.toInt = sext 16 (le16 s.calbuf1[22] s.calbuf1[23])

/-- The humidity coefficients `CAL_DECODE` writes, as numbers, with the two 12-bit sign extensions and the shared byte
(spec/40_calibration_decoder.md R113 to R118, spec/30_encoding.md R84). The spec marks positions, signedness and the nibble assignment "[from
general knowledge, not in source]" (log 11). -/
def Obligations.HumidityCoefficients : Prop :=
  ∀ s : State, ∃ c : Cal, exec .seqCalDecode s = .next { s with cal := c, seq := .cfgHumWr } ∧
    c.h1.toNat = s.calbuf1[25].toNat ∧
    c.h2.toInt = sext 16 (le16 s.calbuf2[0] s.calbuf2[1]) ∧
    c.h3.toNat = s.calbuf2[2].toNat ∧
    c.h4.toInt = sext 12 (s.calbuf2[3].toNat * 16 + s.calbuf2[4].toNat % 16) ∧
    c.h5.toInt = sext 12 (s.calbuf2[5].toNat * 16 + s.calbuf2[4].toNat / 16) ∧
    c.h6.toInt = sext 8 s.calbuf2[6].toNat

/-- The two buffered bytes that influence no coefficient: with any other value in them, `CAL_DECODE` writes the same `CAL`
(spec/40_calibration_decoder.md R119). -/
def Obligations.UnusedCalibrationBytes : Prop :=
  ∀ (s : State) (x y : Byte), ∃ c : Cal,
    exec .seqCalDecode s = .next { s with cal := c, seq := .cfgHumWr } ∧
    exec .seqCalDecode { s with calbuf1 := s.calbuf1.set 24 x, calbuf2 := s.calbuf2.set 7 y } =
      .next { s with calbuf1 := s.calbuf1.set 24 x, calbuf2 := s.calbuf2.set 7 y, cal := c, seq := .cfgHumWr }

/-! ### The phases of `FORCE` -/

/-- `FORCE_RD` reads the mode-control register into `MREG`; `FORCE_WR` writes `MREG[7:2] || 0b01`, that is `(MREG & 0xFC) | 0x01`, back, sets
`SSTATE <- Measuring` and answers `OK` with data 0. A failed exchange in either is `TransportFailure` and leaves `SSTATE` as it is
(spec/41_measurement_controller.md R143, R144, spec/30_encoding.md R80, spec/60_exceptions.md R220). -/
def Obligations.ForcePhases : Prop :=
  ∀ s : State,
    let sentRd := readFrame (wireAddr s.cfg.aCtrlMeas) 1
    let sentWr := writeFrame (wireAddr s.cfg.aCtrlMeas) ((s.mreg &&& 0xFC#8) ||| 0x01#8)
    (∀ x m, Delivers s sentRd [x, m] → exec .seqForceRd s = .next { afterDone s sentRd [x, m] with mreg := m, seq := .forceWr }) ∧
    (∀ rx, FailsAfter s sentRd rx → exec .seqForceRd s = .next (endedBy .transportFailure 0b0001#4 (afterFailure s sentRd rx))) ∧
    (∀ rx, Delivers s sentWr rx → exec .seqForceWr s = .next { afterDone s sentWr rx with
      sstate := .measuring, seq := .idle, responses := s.responses ++ [{ status := .ok, data := 0 }] }) ∧
    (∀ rx, FailsAfter s sentWr rx → exec .seqForceWr s = .next (endedBy .transportFailure 0b0001#4 (afterFailure s sentWr rx)))

/-! ### The phases of a fetch -/

/-- `DATA_RD`: one burst of 8 bytes into `DATABUF`, `SEQ <- RAW_DECODE`; a failed exchange is `TransportFailure`, writes none of `DATABUF`,
`RAW_*`, `TFINE`, `OUT_*` and leaves `SSTATE` unchanged (spec/41_measurement_controller.md R150, spec/60_exceptions.md R221). -/
def Obligations.DataRdPhase : Prop :=
  ∀ s : State,
    let sent := readFrame (wireAddr s.cfg.aData) 8
    (∀ (x : Byte) (block : Vector Byte 8), Delivers s sent (x :: block.toList) →
      exec .seqDataRd s = .next { afterDone s sent (x :: block.toList) with databuf := block, seq := .rawDecode }) ∧
    (∀ rx, FailsAfter s sent rx → exec .seqDataRd s = .next (endedBy .transportFailure 0b0001#4 (afterFailure s sent rx)))

/-- `RAW_DECODE` writes the three raw counts, as numbers, and `SEQ <- COMP_T`; nothing else: no bus event, no error
(spec/41_measurement_controller.md R151, spec/42_compensation_engine.md R177, spec/30_encoding.md R87). -/
def Obligations.RawDecodePhase : Prop :=
  ∀ s : State, ∃ (p t : BitVec 20) (h : BitVec 16),
    exec .seqRawDecode s = .next { s with rawP := p, rawT := t, rawH := h, seq := .compT } ∧
    p.toNat = s.databuf[0].toNat * 4096 + s.databuf[1].toNat * 16 + s.databuf[2].toNat / 16 ∧
    t.toNat = s.databuf[3].toNat * 4096 + s.databuf[4].toNat * 16 + s.databuf[5].toNat / 16 ∧
    h.toNat = s.databuf[6].toNat * 256 + s.databuf[7].toNat

/-- `COMP_T` on a 32-bit two's-complement datapath: steps T.1 to T.15 of spec/42_compensation_engine.md R178 with every operation a 32-bit
machine operation (R171 to R173, R175), `TFINE`, `OUT_T` and `SEQ` written and nothing else. The spec marks T.1 to T.12 "[from general
knowledge, not in source]" (log 10). -/
def Obligations.CompTDatapath : Prop :=
  ∀ s : State,
    let t1 : BitVec 32 := s.cal.t1.setWidth 32
    let t2 : BitVec 32 := s.cal.t2.signExtend 32
    let t3 : BitVec 32 := s.cal.t3.signExtend 32
    let raw : BitVec 32 := s.rawT.setWidth 32
    let d1 := (raw >>> 3) - 2 * t1
    let var1 := (d1 * t2).sshiftRight 11
    let d2 := (raw >>> 4) - t1
    let var2 := ((d2 * d2).sshiftRight 12 * t3).sshiftRight 14
    let fine := var1 + var2
    exec .seqCompT s = .next { s with tfine := fine, outT := (fine * 5 + 128).sshiftRight 8, seq := .compP }

/-- `COMP_P` on a 64-bit two's-complement datapath: steps P.1 to P.13 of spec/42_compensation_engine.md R181 with every operation a 64-bit
machine operation, the division truncating, the escape of P.7, the low 32 bits kept (R171 to R175, R183); `OUT_P` and `SEQ` written and
nothing else. The spec marks all steps but P.7 "[from general knowledge, not in source]" (log 10). -/
def Obligations.CompPDatapath : Prop :=
  ∀ s : State,
    let c (x : BitVec 16) : BitVec 64 := x.signExtend 64
    let v1 : BitVec 64 := s.tfine.signExtend 64 - 128000
    let v2c := v1 * v1 * c s.cal.p6 + (v1 * c s.cal.p5) <<< 17 + c s.cal.p4 <<< 35
    let v1b := (v1 * v1 * c s.cal.p3).sshiftRight 8 + (v1 * c s.cal.p2) <<< 12
    let v1c := ((0x800000000000#64 + v1b) * s.cal.p1.setWidth 64).sshiftRight 33
    let p0 : BitVec 64 := 1048576 - s.rawP.setWidth 64
    let p1 := ((p0 <<< 31 - v2c) * 3125).sdiv v1c
    let v1d := (c s.cal.p9 * p1.sshiftRight 13 * p1.sshiftRight 13).sshiftRight 25
    let v2d := (c s.cal.p8 * p1).sshiftRight 19
    let p2 := (p1 + v1d + v2d).sshiftRight 8 + c s.cal.p7 <<< 4
    exec .seqCompP s = .next { s with outP := if v1c = 0 then 0 else p2.setWidth 32, seq := .compH }

/-- `COMP_H` on a 32-bit two's-complement datapath: steps H.1 to H.15 of spec/42_compensation_engine.md R185, then `SSTATE <- DataReady` and the
response with the result the command in `CMDREG` asks for; nothing else is written. The spec marks H.1 to H.13 "[from general knowledge, not
in source]" (log 10); the data of a `CMDREG` that is no accessor is the model's choice (log 14). -/
def Obligations.CompHDatapath : Prop :=
  ∀ s : State,
    let x : BitVec 32 := s.tfine - 76800
    let d := s.rawH.setWidth 32 <<< 14 - s.cal.h4.signExtend 32 <<< 20 - s.cal.h5.signExtend 32 * x + 16384
    let l := d.sshiftRight 15
    let e := (x * s.cal.h6.signExtend 32).sshiftRight 10
    let f := (x * s.cal.h3.setWidth 32).sshiftRight 11 + 32768
    let g := (e * f).sshiftRight 10 + 2097152
    let r := (g * s.cal.h2.signExtend 32 + 8192).sshiftRight 14
    let y := l * r
    let q := y.sshiftRight 15
    let z := y - ((q * q).sshiftRight 7 * s.cal.h1.setWidth 32).sshiftRight 4
    let zc : BitVec 32 := if z.slt 0 then 0 else if BitVec.slt 419430400 z then 419430400 else z
    let out := zc >>> 12
    let data := if s.cmdreg = 0b100#3 then s.outT else if s.cmdreg = 0b101#3 then s.outP else if s.cmdreg = 0b110#3 then out else 0
    exec .seqCompH s = .next { s with
      outH := out, sstate := .dataReady, seq := .idle, responses := s.responses ++ [{ status := .ok, data := data }] }

/-- The end of the fetch (spec/41_measurement_controller.md R153): `COMP_H` sets `SSTATE <- DataReady` and answers `OK` with `OUT_T`, `OUT_P` or the
`OUT_H` it has just written, as `CMDREG` says; and no other step ever makes `SSTATE` `DataReady`. -/
def Obligations.FetchEndsInCompHAlone : Prop :=
  (∀ s : State, ∃ out : Word, ∀ data : Word,
    (s.cmdreg = 0b100#3 ∧ data = s.outT) ∨ (s.cmdreg = 0b101#3 ∧ data = s.outP) ∨ (s.cmdreg = 0b110#3 ∧ data = out) →
    exec .seqCompH s = .next { s with
      outH := out, sstate := .dataReady, seq := .idle, responses := s.responses ++ [{ status := .ok, data := data }] }) ∧
  (∀ s t : State, step s = .next t → s.sstate ≠ .dataReady → t.sstate = .dataReady → Runs s ∧ s.seq = .compH)

/-- `|TFINE| < 2^21` after every `COMP_T`, whatever the raw count and the coefficients, and `OUT_T` is exactly
`floor((TFINE * 5 + 128) / 256)`: steps T.13 and T.14 never wrap (spec/42_compensation_engine.md R180 (d), R179). -/
def Obligations.FineTemperatureBounded : Prop :=
  ∀ s : State, ∃ t : State, exec .seqCompT s = .next t ∧
    -2097152 < t.tfine.toInt ∧ t.tfine.toInt < 2097152 ∧ t.outT.toInt = (t.tfine.toInt * 5 + 128) / 256

/-- In the box of spec/42_compensation_engine.md R190 (`|T2| <= 16383`, `|lsr(RAW_T, 4) - T1| <= 46340`, `|T3| <= 4095`) `COMP_T` is the formula of
R178 over unbounded integers with flooring shifts (`/` is floor division by a positive number here), for `TFINE` and for `OUT_T`. -/
def Obligations.TemperatureOverflowFreeBox : Prop :=
  ∀ s : State,
    let t1 : Int := s.cal.t1.toNat
    let t2 := s.cal.t2.toInt
    let t3 := s.cal.t3.toInt
    let d2 : Int := (s.rawT.toNat / 16 : Nat) - t1
    t2.natAbs ≤ 16383 → d2.natAbs ≤ 46340 → t3.natAbs ≤ 4095 →
    let fine : Int := (((s.rawT.toNat / 8 : Nat) - 2 * t1) * t2) / 2048 + (d2 * d2 / 4096 * t3) / 16384
    ∃ t : State, exec .seqCompT s = .next t ∧ t.tfine.toInt = fine ∧ t.outT.toInt = (fine * 5 + 128) / 256

/-- The zero-denominator escape (spec/42_compensation_engine.md R182): it fires exactly when `(2^47 + v1b) * P1`, wrapped to 64 bits, lies in 0
to 2^33 - 1; then `OUT_P` is 0 and everything else is as in any `COMP_P`: no error, `COMP_H` next. In particular for `P1 = 0`. The term is the
model's own `pressureDenominator`, steps P.1, P.5 and P.6 (log 10). -/
def Obligations.ZeroDenominatorEscape : Prop :=
  ∀ s : State,
    let v1 := w64 (s.tfine.toInt - 128000)
    let v1b := w64 (asr (w64 (w64 (v1 * v1) * s.cal.p3.toInt)) 8 + shl64 (w64 (v1 * s.cal.p2.toInt)) 12)
    let product := w64 (w64 (2 ^ 47 + v1b) * s.cal.p1.toNat)
    (0 ≤ product ∧ product ≤ 2 ^ 33 - 1 ↔ pressureDenominator s.tfine.toInt s.cal.p1.toNat s.cal.p2.toInt s.cal.p3.toInt = 0) ∧
    (0 ≤ product ∧ product ≤ 2 ^ 33 - 1 → exec .seqCompP s = .next { s with outP := 0, seq := .compH }) ∧
    (s.cal.p1 = 0 → exec .seqCompP s = .next { s with outP := 0, seq := .compH })

/-- The clamp and the final shift (spec/42_compensation_engine.md R186), of the value `z` of steps H.1 to H.13 (log 10): below 0 gives 0, above
419430400 gives 102400, else `floor(z / 4096)`; never more than 102400; the status is `OK` and `ERRLOG` is untouched. -/
def Obligations.HumidityClamp : Prop :=
  ∀ s : State,
    let c := s.cal
    let z := humidityUnclamped s.rawH.toNat s.tfine.toInt c.h1.toNat c.h2.toInt c.h3.toNat c.h4.toInt c.h5.toInt c.h6.toInt
    ∃ t : State, exec .seqCompH s = .next t ∧ t.errlog = s.errlog ∧
      (∃ data, t.responses = s.responses ++ [{ status := .ok, data := data }]) ∧
      t.outH.toNat ≤ 102400 ∧
      (z < 0 → t.outH = 0) ∧
      (419430400 < z → t.outH = 102400) ∧
      (0 ≤ z → z ≤ 419430400 → (t.outH.toNat : Int) = z / 4096)

/-! ### Errors and responses -/

/-- The status codes, and their `ERRLOG` bits: bit `k - 1` corresponds to code `k`; the codes 5 to 7 are never produced (spec/30_encoding.md
R90). -/
def Obligations.StatusCodesAndErrorBits : Prop :=
  Status.ok.code = 0b000#3 ∧ (Status.error .transportFailure).code = 0b001#3 ∧ (Status.error .initTimeout).code = 0b010#3 ∧
    (Status.error .notCalibrated).code = 0b011#3 ∧ (Status.error .refused).code = 0b100#3 ∧
    (∀ st : Status, st.code.toNat ≤ 4) ∧
    (∀ (e : Error) (errlog : BitVec 4) (k : Nat), k < 4 →
      (logError errlog e).getLsbD k = (errlog.getLsbD k || decide (k + 1 = (Status.error e).code.toNat)))

/-- Data other than 0 comes only with status `OK` and only for `GET_T`, `GET_P` or `GET_H` (spec/30_encoding.md R89). -/
def Obligations.DataOnlyFromAccessors : Prop :=
  ∀ (s t : State) (r : Response), step s = .next t → t.responses = s.responses ++ [r] → r.data ≠ 0 →
    r.status = .ok ∧ (t.cmdreg = 0b100#3 ∨ t.cmdreg = 0b101#3 ∨ t.cmdreg = 0b110#3)

/-- `ERRLOG` is the record of the error responses (spec/10_state.md R24): a step with no hardware reset gives at most one response, sets the
bit of an error exactly when it answers with that error, and clears none. -/
def Obligations.ErrorLogIsSticky : Prop :=
  ∀ s t : State, NoReset s → step s = .next t →
    (t.responses = s.responses ∧ t.errlog = s.errlog) ∨
    (∃ r : Response, t.responses = s.responses ++ [r] ∧
      ((r.status = .ok ∧ t.errlog = s.errlog) ∨ (∃ e, r.status = .error e ∧ r.data = 0 ∧ t.errlog = logError s.errlog e)))

/-- `CAL` is written by `CAL_DECODE` alone, all 18 registers together, and lost only at a hardware reset (spec/10_state.md R20). -/
def Obligations.CoefficientsWrittenByCalDecodeAlone : Prop :=
  ∀ s t : State, NoReset s → step s = .next t → t.cal ≠ s.cal →
    Runs s ∧ s.seq = .calDecode ∧ t.cal = decodeCal s.calbuf1 s.calbuf2

/-! ### The machine as a whole -/

/-- `SEQ` only takes the successors of the table of spec/41_measurement_controller.md R161. It stays where it is in a phase that hangs (R162) and in a
hung engine; that a transaction placed from outside leaves it alone is the model's own (log 7). -/
def Obligations.SuccessorTable : Prop :=
  ∀ s t : State, NoReset s → step s = .next t →
    (Runs s ∧ (t.seq ∈ successors s.seq ∨ (t.hung = true ∧ t.seq = s.seq))) ∨
    ((s.hung = true ∨ s.busReq.isSome = true) ∧ t.seq = s.seq)

/-- `SSTATE` only changes as the table of spec/41_measurement_controller.md R154 says, in the phases that R161 gives the change to. The premise,
that a phase runs under its own command, is a part of the invariant (`InvariantKept`); a state that breaks it is reached by no run. -/
def Obligations.StateTransitionTable : Prop :=
  ∀ s t : State, NoReset s → phaseAgrees s.seq s.sstate s.cmdreg → step s = .next t →
    t.sstate = s.sstate ∨ (Runs s ∧ (s.sstate, t.sstate) ∈ sstateChanges s.seq)

/-- The bus is touched by the nine bus phases alone (spec/60_exceptions.md R211 lists nine; log 22), which record no `Delay`; time is used by
`POLL_WAIT` alone (R232), which records nothing else; and while `SSTATE` is `Reset` or `Failed` the bus is touched only inside `INIT`
(spec/20_memory.md R66, spec/41_measurement_controller.md R157). -/
def Obligations.BusEventsOnlyInBusPhases : Prop :=
  ∀ s t : State, Runs s → step s = .next t →
    (t.hist = s.hist ∨ (s.seq ∈ busPhases ∧ ∃ es, t.hist = s.hist ++ es ∧ ∀ ms, .delay ms ∉ es) ∨
      (s.seq = .pollWait ∧ t.hist = s.hist ++ [.delay 2])) ∧
    (phaseAgrees s.seq s.sstate s.cmdreg → s.sstate = .reset ∨ s.sstate = .failed → t.hist ≠ s.hist → s.cmdreg = 0b001#3)

/-- No step changes the parameters, and the record of events and responses only grows, by at most one response a step (spec/20_memory.md R48,
spec/00_scope.md R6; logs 3 and 17). -/
def Obligations.RecordsOnlyGrow : Prop :=
  ∀ s t : State, step s = .next t →
    t.cfg = s.cfg ∧ s.hist <+: t.hist ∧ s.responses <+: t.responses ∧ t.responses.length ≤ s.responses.length + 1

/-- The invariant holds right after reset, in every configuration, whatever the host, the bus and the pin are about to do. -/
def Obligations.InvariantAtReset : Prop :=
  ∀ (cfg : Config) (cmds : List (BitVec 3)) (answers : List Answer) (delays : List Bool) (rst : Bool) (busReq : Option Transaction),
    Inv { State.resetWith cfg with cmds := cmds, answers := answers, delays := delays, rst := rst, busReq := busReq }

/-- Every step keeps the invariant (spec/10_state.md R34; spec/20_memory.md R44; spec/70_reset_and_hazards.md R263, R264): the select line
is high between transactions, unless one hangs, and the bus history is framed; the phase fits `SSTATE` and `CMDREG`; the coefficients in
use are those decoded; the results in `DataReady` belong to one sample; `Failed` has its error logged; `OUT_H <= 102400`; `H4` and `H5`
are 12-bit values; the poll stays within its bound. -/
def Obligations.InvariantKept : Prop :=
  ∀ s t : State, Inv s → step s = .next t → Inv t

/-- A register that holds no value has no influence (spec/70_reset_and_hazards.md R251: "no theorem about reachable behaviour depends on the
choice"; spec/10_state.md R18, R28, R29): two states that agree on everything that holds a value stop alike or step to two such states, with
the same events and responses. The premise is a part of the invariant (`InvariantKept`). -/
def Obligations.UnwrittenRegistersHaveNoInfluence : Prop :=
  ∀ s t : State, AgreeOnLive s t → phaseAgrees s.seq s.sstate s.cmdreg →
    (∀ s', step s = .next s' → ∃ t', step t = .next t' ∧ AgreeOnLive s' t') ∧
    (∀ f, step s = .fault f → step t = .fault f) ∧ (∀ r, step s = .refused r → step t = .refused r)

/-! ### Whole commands -/

/-- Idempotence (spec/41_measurement_controller.md R155): in `DataReady`, any sequence of `GET_T`, `GET_P`, `GET_H` produces no bus event, writes
no register but `CMDREG`, and answers each with the cached word. -/
def Obligations.RepeatedAccessorsAreIdempotent : Prop :=
  ∀ (s : State) (gets rest : List (BitVec 3)), Runs s → s.seq = .idle → s.sstate = .dataReady → s.cmds = gets ++ rest →
    (∀ c ∈ gets, c = 0b100#3 ∨ c = 0b101#3 ∨ c = 0b110#3) →
    Host.Core.run core gets.length s = .next { s with
      cmds := rest
      cmdreg := gets.getLastD s.cmdreg
      responses := s.responses ++ gets.map fun c =>
        { status := .ok, data := if c = 0b100#3 then s.outT else if c = 0b101#3 then s.outP else s.outH } }

/-- A successful `INIT` with `k` busy answers before the ready one, every exchange and `Delay` returning, takes `2 k + 8` steps, decodes
the coefficients, answers `OK`, and has exactly the bus events of spec/41_measurement_controller.md R160: the reset write, `k` times a
status read and `Delay(2)`, the ready status read, the two bursts, the two configuration writes (R131, R140). -/
def Obligations.InitRun : Prop :=
  ∀ (s : State) (cs : List (BitVec 3)) (r0 r1 : Byte) (busy : List (Byte × Byte)) (x ready x1 : Byte) (block1 : Vector Byte 26)
    (x2 : Byte) (block2 : Vector Byte 8) (h0 h1 m0 m1 : Byte) (rest : List Answer),
    Runs s → s.seq = .idle → s.sstate = .reset → s.cmds = 0b001#3 :: cs →
    (∀ p ∈ busy, p.2.getLsbD 0 = true) → ready.getLsbD 0 = false →
    (∀ limit, s.cfg.pollLimit = some limit → busy.length + 1 ≤ limit) → (∀ b ∈ s.delays.take busy.length, b = true) →
    s.answers = ([r0, r1] ++ busy.flatMap (fun p => [p.1, p.2]) ++ [x, ready] ++ x1 :: block1.toList ++ x2 :: block2.toList ++
      [h0, h1] ++ [m0, m1]).map .ok ++ rest →
    let status := readFrame (wireAddr s.cfg.aStatus) 1
    Host.Core.run core (2 * busy.length + 8) s = .next { s with
      cmds := cs
      cmdreg := 0b001#3
      sstate := .idle
      pollcnt := busy.length + 1
      calbuf1 := block1
      calbuf2 := block2
      cal := decodeCal block1 block2
      csn := true
      answers := rest
      delays := s.delays.drop busy.length
      responses := s.responses ++ [{ status := .ok, data := 0 }]
      hist := s.hist ++ transactionEvents (writeFrame (wireAddr s.cfg.aReset) s.cfg.vReset) [r0, r1] ++
        busy.flatMap (fun p => transactionEvents status [p.1, p.2] ++ [.delay 2]) ++ transactionEvents status [x, ready] ++
        transactionEvents (readFrame (wireAddr s.cfg.aCal1) 26) (x1 :: block1.toList) ++
        transactionEvents (readFrame (wireAddr s.cfg.aCal2) 8) (x2 :: block2.toList) ++
        transactionEvents (writeFrame (wireAddr s.cfg.aCtrlHum) (humByte s.cfg)) [h0, h1] ++
        transactionEvents (writeFrame (wireAddr s.cfg.aCtrlMeas) (sleepByte s.cfg)) [m0, m1] }

/-- With `POLL_LIMIT = N` and a device that stays busy, `INIT` makes `N` status reads and `N - 1` delays, answers `InitTimeout`, logs it and
ends in `Failed`, with `CAL` as it was (spec/41_measurement_controller.md R133, spec/60_exceptions.md R212, R219, spec/70_reset_and_hazards.md
R259; log 13 for `POLLCNT`). -/
def Obligations.InitTimeoutRun : Prop :=
  ∀ (s : State) (cs : List (BitVec 3)) (r0 r1 : Byte) (busy : List (Byte × Byte)) (rest : List Answer),
    Runs s → s.seq = .idle → s.sstate = .reset → s.cmds = 0b001#3 :: cs →
    (∀ p ∈ busy, p.2.getLsbD 0 = true) → s.cfg.pollLimit = some busy.length → (∀ b ∈ s.delays.take (busy.length - 1), b = true) →
    s.answers = ([r0, r1] ++ busy.flatMap (fun p => [p.1, p.2])).map .ok ++ rest →
    let status := readFrame (wireAddr s.cfg.aStatus) 1
    Host.Core.run core (2 * busy.length + 1) s = .next { s with
      cmds := cs
      cmdreg := 0b001#3
      sstate := .failed
      errlog := s.errlog ||| 0b0010#4
      pollcnt := busy.length
      csn := true
      answers := rest
      delays := s.delays.drop (busy.length - 1)
      responses := s.responses ++ [{ status := .error .initTimeout, data := 0 }]
      hist := s.hist ++ transactionEvents (writeFrame (wireAddr s.cfg.aReset) s.cfg.vReset) [r0, r1] ++
        (busy.flatMap (fun p => transactionEvents status [p.1, p.2] ++ [.delay 2])).dropLast }

/-- A successful `FORCE` takes three steps from `IDLE` to `IDLE`: the device answers `m`, the engine writes `(m & 0xFC) | 0x01` back, ends in
`Measuring` whatever the state was before, and answers `OK`; `CAL`, `RAW_*`, `TFINE` and `OUT_*` are not written (spec/41_measurement_controller.md
R142, R145, R160). -/
def Obligations.ForceRun : Prop :=
  ∀ (s : State) (cs : List (BitVec 3)) (x m y z : Byte) (rest : List Answer),
    Runs s → s.seq = .idle → s.calvalid = true → s.cmds = 0b010#3 :: cs → s.answers = [x, m, y, z].map .ok ++ rest →
    Host.Core.run core 3 s = .next { s with
      cmds := cs
      cmdreg := 0b010#3
      mreg := m
      sstate := .measuring
      csn := true
      answers := rest
      responses := s.responses ++ [{ status := .ok, data := 0 }]
      hist := s.hist ++ transactionEvents (readFrame (wireAddr s.cfg.aCtrlMeas) 1) [x, m] ++
        transactionEvents (writeFrame (wireAddr s.cfg.aCtrlMeas) ((m &&& 0xFC#8) ||| 0x01#8)) [y, z] }

/-- An accessor that is not fresh takes six steps from `IDLE` to `IDLE`: one burst, the raw counts, then temperature, pressure and humidity from
them, all three whichever accessor asked, `SSTATE` `DataReady`, and the answer `OK` with the result asked for
(spec/41_measurement_controller.md R146 to R149, R156, R160, spec/42_compensation_engine.md R188, R192). -/
def Obligations.FetchRun : Prop :=
  ∀ (s : State) (c : BitVec 3) (cs : List (BitVec 3)) (x : Byte) (block : Vector Byte 8) (rest : List Answer),
    Runs s → s.seq = .idle → s.sstate = .idle ∨ s.sstate = .measuring → c = 0b100#3 ∨ c = 0b101#3 ∨ c = 0b110#3 → s.cmds = c :: cs →
    s.answers = (x :: block.toList).map .ok ++ rest →
    let rawP := count20 block[0] block[1] block[2]
    let rawT := count20 block[3] block[4] block[5]
    let rawH := count16 block[6] block[7]
    let tfine := compTfine rawT s.cal
    let outT := compOutT tfine
    let outP := compOutP rawP tfine s.cal
    let outH := compOutH rawH tfine s.cal
    Host.Core.run core 6 s = .next { s with
      cmds := cs
      cmdreg := c
      databuf := block
      rawP := rawP
      rawT := rawT
      rawH := rawH
      tfine := tfine
      outT := outT
      outP := outP
      outH := outH
      sstate := .dataReady
      csn := true
      answers := rest
      responses := s.responses ++
        [{ status := .ok, data := if c = 0b100#3 then outT else if c = 0b101#3 then outP else outH }]
      hist := s.hist ++ transactionEvents (readFrame (wireAddr s.cfg.aData) 8) (x :: block.toList) }

/-- The phases of `FORCE` and of the accessors carry out exactly the big step of the command rules (spec/41_measurement_controller.md R142, R146
to R149; "the two agree by construction"), in every state and whatever the bus answers: complete, failed, cut off by `rst`
(spec/70_reset_and_hazards.md R250), or hung in the phase that called (R162). -/
def Obligations.ForceAndAccessorsAgreeWithBigStep : Prop :=
  ∀ (s : State) (cs : List (BitVec 3)), Runs s → s.seq = .idle →
    (s.cmds = 0b010#3 :: cs → ∃ n, 0 < n ∧ Host.Core.run core n s = .next (bigForce { s with cmds := cs })) ∧
    (∀ c, c = 0b100#3 ∨ c = 0b101#3 ∨ c = 0b110#3 → s.cmds = c :: cs →
      ∃ n, 0 < n ∧ Host.Core.run core n s = .next (bigGet c { s with cmds := cs }))

/-- The phases of `INIT` carry out exactly its big step (spec/41_measurement_controller.md R131), in every state and whatever the bus and
the delay capability answer, also nothing (R162), for every number of status reads after which it is over (spec/70_reset_and_hazards.md
R269 "runs `INIT` with fuel"). -/
def Obligations.InitAgreesWithBigStep : Prop :=
  ∀ (s t : State) (cs : List (BitVec 3)) (fuel : Nat), Runs s → s.seq = .idle → s.cmds = 0b001#3 :: cs →
    bigInit fuel { s with cmds := cs } = some t → ∃ n, 0 < n ∧ Host.Core.run core n s = .next t
end

