-- ==== Sys2Proof/Laws/State.lean ====
section
/-! SUPPORT. What each shared update leaves in each field, one lemma a field, true by `rfl`: later proofs cite these (`simp`) and unfold
no record update. -/

namespace Sys2Proof.Machine

/-! ### `record` -/

@[simp] theorem record_cfg (e : BusEvent) (s : State) : (record e s).cfg = s.cfg := rfl
@[simp] theorem record_rawP (e : BusEvent) (s : State) : (record e s).rawP = s.rawP := rfl
@[simp] theorem record_rawT (e : BusEvent) (s : State) : (record e s).rawT = s.rawT := rfl
@[simp] theorem record_rawH (e : BusEvent) (s : State) : (record e s).rawH = s.rawH := rfl
@[simp] theorem record_tfine (e : BusEvent) (s : State) : (record e s).tfine = s.tfine := rfl
@[simp] theorem record_outT (e : BusEvent) (s : State) : (record e s).outT = s.outT := rfl
@[simp] theorem record_outP (e : BusEvent) (s : State) : (record e s).outP = s.outP := rfl
@[simp] theorem record_outH (e : BusEvent) (s : State) : (record e s).outH = s.outH := rfl
@[simp] theorem record_cal (e : BusEvent) (s : State) : (record e s).cal = s.cal := rfl
@[simp] theorem record_sstate (e : BusEvent) (s : State) : (record e s).sstate = s.sstate := rfl
@[simp] theorem record_errlog (e : BusEvent) (s : State) : (record e s).errlog = s.errlog := rfl
@[simp] theorem record_seq (e : BusEvent) (s : State) : (record e s).seq = s.seq := rfl
@[simp] theorem record_cmdreg (e : BusEvent) (s : State) : (record e s).cmdreg = s.cmdreg := rfl
@[simp] theorem record_pollcnt (e : BusEvent) (s : State) : (record e s).pollcnt = s.pollcnt := rfl
@[simp] theorem record_mreg (e : BusEvent) (s : State) : (record e s).mreg = s.mreg := rfl
@[simp] theorem record_calbuf1 (e : BusEvent) (s : State) : (record e s).calbuf1 = s.calbuf1 := rfl
@[simp] theorem record_calbuf2 (e : BusEvent) (s : State) : (record e s).calbuf2 = s.calbuf2 := rfl
@[simp] theorem record_databuf (e : BusEvent) (s : State) : (record e s).databuf = s.databuf := rfl
@[simp] theorem record_csn (e : BusEvent) (s : State) : (record e s).csn = s.csn := rfl
@[simp] theorem record_hist (e : BusEvent) (s : State) : (record e s).hist = s.hist ++ [e] := rfl
@[simp] theorem record_responses (e : BusEvent) (s : State) : (record e s).responses = s.responses := rfl
@[simp] theorem record_cmds (e : BusEvent) (s : State) : (record e s).cmds = s.cmds := rfl
@[simp] theorem record_answers (e : BusEvent) (s : State) : (record e s).answers = s.answers := rfl
@[simp] theorem record_delays (e : BusEvent) (s : State) : (record e s).delays = s.delays := rfl
@[simp] theorem record_rst (e : BusEvent) (s : State) : (record e s).rst = s.rst := rfl
@[simp] theorem record_hung (e : BusEvent) (s : State) : (record e s).hung = s.hung := rfl
@[simp] theorem record_busReq (e : BusEvent) (s : State) : (record e s).busReq = s.busReq := rfl
@[simp] theorem record_busOut (e : BusEvent) (s : State) : (record e s).busOut = s.busOut := rfl

/-! ### `select` -/

@[simp] theorem select_cfg (high : Bool) (s : State) : (select high s).cfg = s.cfg := rfl
@[simp] theorem select_rawP (high : Bool) (s : State) : (select high s).rawP = s.rawP := rfl
@[simp] theorem select_rawT (high : Bool) (s : State) : (select high s).rawT = s.rawT := rfl
@[simp] theorem select_rawH (high : Bool) (s : State) : (select high s).rawH = s.rawH := rfl
@[simp] theorem select_tfine (high : Bool) (s : State) : (select high s).tfine = s.tfine := rfl
@[simp] theorem select_outT (high : Bool) (s : State) : (select high s).outT = s.outT := rfl
@[simp] theorem select_outP (high : Bool) (s : State) : (select high s).outP = s.outP := rfl
@[simp] theorem select_outH (high : Bool) (s : State) : (select high s).outH = s.outH := rfl
@[simp] theorem select_cal (high : Bool) (s : State) : (select high s).cal = s.cal := rfl
@[simp] theorem select_sstate (high : Bool) (s : State) : (select high s).sstate = s.sstate := rfl
@[simp] theorem select_errlog (high : Bool) (s : State) : (select high s).errlog = s.errlog := rfl
@[simp] theorem select_seq (high : Bool) (s : State) : (select high s).seq = s.seq := rfl
@[simp] theorem select_cmdreg (high : Bool) (s : State) : (select high s).cmdreg = s.cmdreg := rfl
@[simp] theorem select_pollcnt (high : Bool) (s : State) : (select high s).pollcnt = s.pollcnt := rfl
@[simp] theorem select_mreg (high : Bool) (s : State) : (select high s).mreg = s.mreg := rfl
@[simp] theorem select_calbuf1 (high : Bool) (s : State) : (select high s).calbuf1 = s.calbuf1 := rfl
@[simp] theorem select_calbuf2 (high : Bool) (s : State) : (select high s).calbuf2 = s.calbuf2 := rfl
@[simp] theorem select_databuf (high : Bool) (s : State) : (select high s).databuf = s.databuf := rfl
@[simp] theorem select_csn (high : Bool) (s : State) : (select high s).csn = high := rfl
@[simp] theorem select_hist (high : Bool) (s : State) : (select high s).hist = s.hist ++ [.sel high] := rfl
@[simp] theorem select_responses (high : Bool) (s : State) : (select high s).responses = s.responses := rfl
@[simp] theorem select_cmds (high : Bool) (s : State) : (select high s).cmds = s.cmds := rfl
@[simp] theorem select_answers (high : Bool) (s : State) : (select high s).answers = s.answers := rfl
@[simp] theorem select_delays (high : Bool) (s : State) : (select high s).delays = s.delays := rfl
@[simp] theorem select_rst (high : Bool) (s : State) : (select high s).rst = s.rst := rfl
@[simp] theorem select_hung (high : Bool) (s : State) : (select high s).hung = s.hung := rfl
@[simp] theorem select_busReq (high : Bool) (s : State) : (select high s).busReq = s.busReq := rfl
@[simp] theorem select_busOut (high : Bool) (s : State) : (select high s).busOut = s.busOut := rfl

/-! ### `delay` -/

/-- A `Delay` that returns: the event, and one answer of the script used (spec/60_exceptions.md R232). -/
theorem delay_returns (ms : Nat) {s : State} (h : s.delays.headD true = true) :
    delay ms s = (true, { s with hist := s.hist ++ [.delay ms], delays := s.delays.tail }) := by
  simp only [delay, h, record]; rfl

/-- A `Delay` that never returns (spec/41_measurement_controller.md R162). -/
theorem delay_hangs (ms : Nat) {s : State} (h : s.delays.headD true = false) :
    delay ms s = (false, { s with hist := s.hist ++ [.delay ms], delays := s.delays.tail, hung := true }) := by
  simp only [delay, h, record]; rfl

/-! ### `respond` -/

@[simp] theorem respond_cfg (st : Status) (d : Word) (s : State) : (respond st d s).cfg = s.cfg := rfl
@[simp] theorem respond_rawP (st : Status) (d : Word) (s : State) : (respond st d s).rawP = s.rawP := rfl
@[simp] theorem respond_rawT (st : Status) (d : Word) (s : State) : (respond st d s).rawT = s.rawT := rfl
@[simp] theorem respond_rawH (st : Status) (d : Word) (s : State) : (respond st d s).rawH = s.rawH := rfl
@[simp] theorem respond_tfine (st : Status) (d : Word) (s : State) : (respond st d s).tfine = s.tfine := rfl
@[simp] theorem respond_outT (st : Status) (d : Word) (s : State) : (respond st d s).outT = s.outT := rfl
@[simp] theorem respond_outP (st : Status) (d : Word) (s : State) : (respond st d s).outP = s.outP := rfl
@[simp] theorem respond_outH (st : Status) (d : Word) (s : State) : (respond st d s).outH = s.outH := rfl
@[simp] theorem respond_cal (st : Status) (d : Word) (s : State) : (respond st d s).cal = s.cal := rfl
@[simp] theorem respond_sstate (st : Status) (d : Word) (s : State) : (respond st d s).sstate = s.sstate := rfl
@[simp] theorem respond_errlog (st : Status) (d : Word) (s : State) : (respond st d s).errlog = s.errlog := rfl
@[simp] theorem respond_seq (st : Status) (d : Word) (s : State) : (respond st d s).seq = .idle := rfl
@[simp] theorem respond_cmdreg (st : Status) (d : Word) (s : State) : (respond st d s).cmdreg = s.cmdreg := rfl
@[simp] theorem respond_pollcnt (st : Status) (d : Word) (s : State) : (respond st d s).pollcnt = s.pollcnt := rfl
@[simp] theorem respond_mreg (st : Status) (d : Word) (s : State) : (respond st d s).mreg = s.mreg := rfl
@[simp] theorem respond_calbuf1 (st : Status) (d : Word) (s : State) : (respond st d s).calbuf1 = s.calbuf1 := rfl
@[simp] theorem respond_calbuf2 (st : Status) (d : Word) (s : State) : (respond st d s).calbuf2 = s.calbuf2 := rfl
@[simp] theorem respond_databuf (st : Status) (d : Word) (s : State) : (respond st d s).databuf = s.databuf := rfl
@[simp] theorem respond_csn (st : Status) (d : Word) (s : State) : (respond st d s).csn = s.csn := rfl
@[simp] theorem respond_hist (st : Status) (d : Word) (s : State) : (respond st d s).hist = s.hist := rfl
@[simp] theorem respond_responses (st : Status) (d : Word) (s : State) : (respond st d s).responses = s.responses ++ [{ status := st, data := d }] := rfl
@[simp] theorem respond_cmds (st : Status) (d : Word) (s : State) : (respond st d s).cmds = s.cmds := rfl
@[simp] theorem respond_answers (st : Status) (d : Word) (s : State) : (respond st d s).answers = s.answers := rfl
@[simp] theorem respond_delays (st : Status) (d : Word) (s : State) : (respond st d s).delays = s.delays := rfl
@[simp] theorem respond_rst (st : Status) (d : Word) (s : State) : (respond st d s).rst = s.rst := rfl
@[simp] theorem respond_hung (st : Status) (d : Word) (s : State) : (respond st d s).hung = s.hung := rfl
@[simp] theorem respond_busReq (st : Status) (d : Word) (s : State) : (respond st d s).busReq = s.busReq := rfl
@[simp] theorem respond_busOut (st : Status) (d : Word) (s : State) : (respond st d s).busOut = s.busOut := rfl

/-! ### `raise` -/

@[simp] theorem raise_cfg (e : Error) (d : During) (s : State) : (raise e d s).cfg = s.cfg := rfl
@[simp] theorem raise_rawP (e : Error) (d : During) (s : State) : (raise e d s).rawP = s.rawP := rfl
@[simp] theorem raise_rawT (e : Error) (d : During) (s : State) : (raise e d s).rawT = s.rawT := rfl
@[simp] theorem raise_rawH (e : Error) (d : During) (s : State) : (raise e d s).rawH = s.rawH := rfl
@[simp] theorem raise_tfine (e : Error) (d : During) (s : State) : (raise e d s).tfine = s.tfine := rfl
@[simp] theorem raise_outT (e : Error) (d : During) (s : State) : (raise e d s).outT = s.outT := rfl
@[simp] theorem raise_outP (e : Error) (d : During) (s : State) : (raise e d s).outP = s.outP := rfl
@[simp] theorem raise_outH (e : Error) (d : During) (s : State) : (raise e d s).outH = s.outH := rfl
@[simp] theorem raise_cal (e : Error) (d : During) (s : State) : (raise e d s).cal = s.cal := rfl
@[simp] theorem raise_sstate (e : Error) (d : During) (s : State) : (raise e d s).sstate = errorState d s.sstate := rfl
@[simp] theorem raise_errlog (e : Error) (d : During) (s : State) : (raise e d s).errlog = logError s.errlog e := rfl
@[simp] theorem raise_seq (e : Error) (d : During) (s : State) : (raise e d s).seq = .idle := rfl
@[simp] theorem raise_cmdreg (e : Error) (d : During) (s : State) : (raise e d s).cmdreg = s.cmdreg := rfl
@[simp] theorem raise_pollcnt (e : Error) (d : During) (s : State) : (raise e d s).pollcnt = s.pollcnt := rfl
@[simp] theorem raise_mreg (e : Error) (d : During) (s : State) : (raise e d s).mreg = s.mreg := rfl
@[simp] theorem raise_calbuf1 (e : Error) (d : During) (s : State) : (raise e d s).calbuf1 = s.calbuf1 := rfl
@[simp] theorem raise_calbuf2 (e : Error) (d : During) (s : State) : (raise e d s).calbuf2 = s.calbuf2 := rfl
@[simp] theorem raise_databuf (e : Error) (d : During) (s : State) : (raise e d s).databuf = s.databuf := rfl
@[simp] theorem raise_csn (e : Error) (d : During) (s : State) : (raise e d s).csn = s.csn := rfl
@[simp] theorem raise_hist (e : Error) (d : During) (s : State) : (raise e d s).hist = s.hist := rfl
@[simp] theorem raise_responses (e : Error) (d : During) (s : State) : (raise e d s).responses = s.responses ++ [{ status := .error e, data := 0 }] := rfl
@[simp] theorem raise_cmds (e : Error) (d : During) (s : State) : (raise e d s).cmds = s.cmds := rfl
@[simp] theorem raise_answers (e : Error) (d : During) (s : State) : (raise e d s).answers = s.answers := rfl
@[simp] theorem raise_delays (e : Error) (d : During) (s : State) : (raise e d s).delays = s.delays := rfl
@[simp] theorem raise_rst (e : Error) (d : During) (s : State) : (raise e d s).rst = s.rst := rfl
@[simp] theorem raise_hung (e : Error) (d : During) (s : State) : (raise e d s).hung = s.hung := rfl
@[simp] theorem raise_busReq (e : Error) (d : During) (s : State) : (raise e d s).busReq = s.busReq := rfl
@[simp] theorem raise_busOut (e : Error) (d : During) (s : State) : (raise e d s).busOut = s.busOut := rfl

/-! ### `hardwareReset` -/

@[simp] theorem hardwareReset_cfg (s : State) : (hardwareReset s).cfg = s.cfg := rfl
@[simp] theorem hardwareReset_rawP (s : State) : (hardwareReset s).rawP = 0 := rfl
@[simp] theorem hardwareReset_rawT (s : State) : (hardwareReset s).rawT = 0 := rfl
@[simp] theorem hardwareReset_rawH (s : State) : (hardwareReset s).rawH = 0 := rfl
@[simp] theorem hardwareReset_tfine (s : State) : (hardwareReset s).tfine = 0 := rfl
@[simp] theorem hardwareReset_outT (s : State) : (hardwareReset s).outT = 0 := rfl
@[simp] theorem hardwareReset_outP (s : State) : (hardwareReset s).outP = 0 := rfl
@[simp] theorem hardwareReset_outH (s : State) : (hardwareReset s).outH = 0 := rfl
@[simp] theorem hardwareReset_cal (s : State) : (hardwareReset s).cal = Cal.reset := rfl
@[simp] theorem hardwareReset_sstate (s : State) : (hardwareReset s).sstate = .reset := rfl
@[simp] theorem hardwareReset_errlog (s : State) : (hardwareReset s).errlog = 0 := rfl
@[simp] theorem hardwareReset_seq (s : State) : (hardwareReset s).seq = .idle := rfl
@[simp] theorem hardwareReset_cmdreg (s : State) : (hardwareReset s).cmdreg = 0 := rfl
@[simp] theorem hardwareReset_pollcnt (s : State) : (hardwareReset s).pollcnt = 0 := rfl
@[simp] theorem hardwareReset_mreg (s : State) : (hardwareReset s).mreg = 0 := rfl
@[simp] theorem hardwareReset_calbuf1 (s : State) : (hardwareReset s).calbuf1 = Vector.replicate 26 0 := rfl
@[simp] theorem hardwareReset_calbuf2 (s : State) : (hardwareReset s).calbuf2 = Vector.replicate 8 0 := rfl
@[simp] theorem hardwareReset_databuf (s : State) : (hardwareReset s).databuf = Vector.replicate 8 0 := rfl
@[simp] theorem hardwareReset_csn (s : State) : (hardwareReset s).csn = true := rfl
@[simp] theorem hardwareReset_hist (s : State) : (hardwareReset s).hist = if s.csn then s.hist else s.hist ++ [.sel true] := rfl
@[simp] theorem hardwareReset_responses (s : State) : (hardwareReset s).responses = s.responses := rfl
@[simp] theorem hardwareReset_cmds (s : State) : (hardwareReset s).cmds = s.cmds := rfl
@[simp] theorem hardwareReset_answers (s : State) : (hardwareReset s).answers = s.answers := rfl
@[simp] theorem hardwareReset_delays (s : State) : (hardwareReset s).delays = s.delays := rfl
@[simp] theorem hardwareReset_rst (s : State) : (hardwareReset s).rst = false := rfl
@[simp] theorem hardwareReset_hung (s : State) : (hardwareReset s).hung = false := rfl
@[simp] theorem hardwareReset_busReq (s : State) : (hardwareReset s).busReq = s.busReq := rfl
@[simp] theorem hardwareReset_busOut (s : State) : (hardwareReset s).busOut = s.busOut := rfl

end Sys2Proof.Machine
end

