-- ==== Sys2Proof/Laws/Bus.lean ====
section
/-! SUPPORT. What the bus operations can do: a transaction changes the history, the script of answers and the select line, leaves the engine
hung if an exchange never returns, and does nothing else; a complete one receives a byte for each byte sent and leaves the line high. Provers cite these instead of unfolding
`exchanges`. -/

namespace Sys2Proof.Machine

open Safety

/-- How a transaction ends that an exchange with this answer ends: `none` for an exchange that succeeds and is followed by the next. -/
def stopResult : Answer → Option BusResult
  | .ok _ => none
  | .fail => some .failed
  | .rst | .okRst _ | .failRst => some .reset
  | .hang => some .hung

@[simp] theorem stopResult_of_isReset {a : Answer} (h : a.isReset = true) : stopResult a = some .reset := by
  cases a <;> first | rfl | cases h

/-- An answer that ends a transaction is a failure, one with which `rst` comes, or a hang. -/
theorem stopResult_cases {a : Answer} {r : BusResult} (h : stopResult a = some r) :
    (a = .fail ∧ r = .failed) ∨ (a.isReset = true ∧ r = .reset) ∨ (a = .hang ∧ r = .hung) := by
  cases a <;> simp_all [stopResult, Answer.isReset, eq_comm]

/-- The one inversion lemma of a byte exchange: it succeeds and the next may follow, or it ends the transaction. -/
theorem transferByte_cases (tx : Byte) (s : State) :
    (∃ rx, nextAnswer s.answers s.hist tx = .ok rx ∧
      transferByte tx s = (.ok rx, { s with answers := s.answers.tail, hist := s.hist ++ [.xfer tx rx] })) ∨
    (∃ stop r, nextAnswer s.answers s.hist tx = stop ∧ stopResult stop = some r ∧
      transferByte tx s = (stop, { s with
        answers := s.answers.tail, hist := s.hist ++ stopEvents tx stop, hung := s.hung || stop == .hang })) := by
  unfold transferByte
  cases h : nextAnswer s.answers s.hist tx with
  | ok rx => exact .inl ⟨rx, rfl, rfl⟩
  | fail => exact .inr ⟨_, _, rfl, rfl, by simp [stopEvents, record]⟩
  | rst => exact .inr ⟨_, _, rfl, rfl, by simp [stopEvents]⟩
  | okRst rx => exact .inr ⟨_, _, rfl, rfl, by simp [stopEvents, record]⟩
  | failRst => exact .inr ⟨_, _, rfl, rfl, by simp [stopEvents, record]⟩
  | hang => exact .inr ⟨_, _, rfl, rfl, by simp [stopEvents]⟩

@[simp] theorem exchanges_nil (s : State) : exchanges [] s = (.done [], s) := rfl

/-- An exchange that succeeds, then the rest. -/
theorem exchanges_cons_ok {tx rx : Byte} {s : State} (sent : List Byte) (h : nextAnswer s.answers s.hist tx = .ok rx) :
    exchanges (tx :: sent) s =
      match exchanges sent { s with answers := s.answers.tail, hist := s.hist ++ [.xfer tx rx] } with
      | (.done rs, s2) => (.done (rx :: rs), s2)
      | (r, s2) => (r, s2) := by
  simp only [exchanges, transferByte, h]; rfl

/-- An exchange that fails, is cut off by `rst` or hangs is the last (spec/20_memory.md R51, spec/70_reset_and_hazards.md R250,
spec/41_measurement_controller.md R162). -/
theorem exchanges_cons_stop {tx : Byte} {s : State} {stop : Answer} {r : BusResult} (sent : List Byte)
    (h : nextAnswer s.answers s.hist tx = stop) (hr : stopResult stop = some r) :
    exchanges (tx :: sent) s = (r, { s with
      answers := s.answers.tail, hist := s.hist ++ stopEvents tx stop, hung := s.hung || stop == .hang }) := by
  rcases transferByte_cases tx s with ⟨rx, h', -⟩ | ⟨stop', r', h', hr', ht⟩
  · rw [h'] at h; subst h; cases hr
  · obtain rfl : stop' = stop := h'.symm.trans h
    rw [exchanges, ht]
    rcases stopResult_cases hr with ⟨rfl, rfl⟩ | ⟨hi, rfl⟩ | ⟨rfl, rfl⟩
    · rfl
    · cases stop' <;> first | rfl | cases hi
    · rfl

/-- Exchanges change the history and the script only, and leave the engine hung if one never returns. -/
theorem exchanges_frame (sent : List Byte) (s : State) :
    (exchanges sent s).2 = { s with
      hist := (exchanges sent s).2.hist, answers := (exchanges sent s).2.answers, hung := (exchanges sent s).2.hung } := by
  induction sent generalizing s with
  | nil => rfl
  | cons tx sent ih =>
    rcases transferByte_cases tx s with ⟨rx, h, -⟩ | ⟨stop, r, h, hr, -⟩
    · have hs := ih { s with answers := s.answers.tail, hist := s.hist ++ [.xfer tx rx] }
      rw [exchanges_cons_ok sent h]
      generalize exchanges sent _ = p at hs ⊢
      obtain ⟨r, s2⟩ := p
      cases r <;> exact hs
    · rw [exchanges_cons_stop sent h hr]

/-- Complete exchanges receive a byte for each byte sent. -/
theorem exchanges_length {sent rx : List Byte} {s t : State} (h : exchanges sent s = (.done rx, t)) : rx.length = sent.length := by
  induction sent generalizing s rx t with
  | nil => simp only [exchanges_nil, Prod.mk.injEq, BusResult.done.injEq] at h; simp [← h.1]
  | cons tx sent ih =>
    rcases transferByte_cases tx s with ⟨x, hx, -⟩ | ⟨stop, r, hx, hr, -⟩
    · rw [exchanges_cons_ok sent hx] at h
      generalize hp : exchanges sent _ = p at h
      obtain ⟨q, s2⟩ := p
      cases q with
      | done rs =>
        simp only [Prod.mk.injEq, BusResult.done.injEq] at h
        simp [← h.1, ih hp]
      | failed => simp at h
      | reset => simp at h
      | hung => simp at h
    · rw [exchanges_cons_stop sent hx hr] at h
      rcases stopResult_cases hr with ⟨-, rfl⟩ | ⟨-, rfl⟩ | ⟨-, rfl⟩ <;> simp at h

/-- A transaction in terms of its exchanges, by how they end. -/
theorem transact_eq (sent : List Byte) (s : State) :
    transact sent s =
      match exchanges sent (select false s) with
      | (.reset, s1) => (.reset, s1)
      | (.hung, s1) => (.hung, s1)
      | (.done rx, s1) => (.done rx, select true s1)
      | (.failed, s1) => (.failed, select true s1) := by
  unfold transact
  generalize exchanges sent (select false s) = p
  obtain ⟨r, s1⟩ := p
  cases r <;> rfl

/-- A transaction changes the history, the script and the select line only, and leaves the engine hung if an exchange never returns. -/
theorem transact_frame (sent : List Byte) (s : State) :
    (transact sent s).2 = { s with
      hist := (transact sent s).2.hist
      answers := (transact sent s).2.answers
      csn := (transact sent s).2.csn
      hung := (transact sent s).2.hung } := by
  have h := exchanges_frame sent (select false s)
  rw [transact_eq]
  generalize exchanges sent (select false s) = p at h ⊢
  obtain ⟨r, s1⟩ := p
  cases r <;> simp only at h ⊢ <;> rw [h] <;> rfl

/-- After a transaction that neither was cut off by `rst` nor hangs, the select line is high (spec/10_state.md R30). -/
theorem transact_csn {sent : List Byte} {s : State} (h : (transact sent s).1 ≠ .reset) (hh : (transact sent s).1 ≠ .hung) :
    (transact sent s).2.csn = true := by
  rw [transact_eq] at h hh ⊢
  generalize exchanges sent (select false s) = p at h hh ⊢
  obtain ⟨r, s1⟩ := p
  cases r
  · rfl
  · rfl
  · exact absurd rfl h
  · exact absurd rfl hh

/-- A complete transaction receives a byte for each byte sent. -/
theorem transact_length {sent rx : List Byte} {s t : State} (h : transact sent s = (.done rx, t)) : rx.length = sent.length := by
  rw [transact_eq] at h
  generalize hp : exchanges sent (select false s) = p at h
  obtain ⟨r, s1⟩ := p
  cases r with
  | done rs =>
    simp only [Prod.mk.injEq, BusResult.done.injEq] at h
    rw [← h.1]
    exact exchanges_length hp
  | failed => simp at h
  | reset => simp at h
  | hung => simp at h

/-- The state after `BusRead` is the state after its transaction. -/
theorem busRead_state (a : BitVec 7) (n : Nat) (s : State) : (busRead a n s).2 = (transact (readFrame a n) s).2 := by
  unfold busRead
  generalize transact (readFrame a n) s = p
  obtain ⟨r, s1⟩ := p
  cases r <;> rfl

/-- The state after `BusWrite` is the state after its transaction. -/
theorem busWrite_state (a : BitVec 7) (v : Byte) (s : State) : (busWrite a v s).2 = (transact (writeFrame a v) s).2 := by
  unfold busWrite
  generalize transact (writeFrame a v) s = p
  obtain ⟨r, s1⟩ := p
  cases r <;> rfl

/-- The value of a complete `BusRead` is the bytes its transaction received after the first (spec/20_memory.md R45). -/
theorem busRead_done {a : BitVec 7} {n : Nat} {s t : State} {rx : List Byte} (h : transact (readFrame a n) s = (.done rx, t)) :
    busRead a n s = (.done rx.tail, t) := by
  unfold busRead; rw [h]

/-- A failed `BusRead` is its failed transaction. -/
theorem busRead_failed {a : BitVec 7} {n : Nat} {s t : State} (h : transact (readFrame a n) s = (.failed, t)) :
    busRead a n s = (.failed, t) := by
  unfold busRead; rw [h]

/-- A complete `BusWrite` has no value (spec/20_memory.md R50). -/
theorem busWrite_done {a : BitVec 7} {v : Byte} {s t : State} {rx : List Byte} (h : transact (writeFrame a v) s = (.done rx, t)) :
    busWrite a v s = (.done [], t) := by
  unfold busWrite; rw [h]

/-- A failed `BusWrite` is its failed transaction. -/
theorem busWrite_failed {a : BitVec 7} {v : Byte} {s t : State} (h : transact (writeFrame a v) s = (.failed, t)) :
    busWrite a v s = (.failed, t) := by
  unfold busWrite; rw [h]

/-- The value of a complete `BusRead(a, n)` has `n` bytes (spec/20_memory.md R49). -/
theorem busRead_length {a : BitVec 7} {n : Nat} {s t : State} {bytes : List Byte} (h : busRead a n s = (.done bytes, t)) :
    bytes.length = n := by
  unfold busRead at h
  generalize hp : transact (readFrame a n) s = p at h
  obtain ⟨r, s1⟩ := p
  cases r with
  | done rx =>
    simp only [Prod.mk.injEq, BusResult.done.injEq] at h
    have hl := transact_length hp
    simp [readFrame] at hl
    simp [← h.1, hl]
  | failed => simp at h
  | reset => simp at h
  | hung => simp at h

/-- A buffer filled with exactly its number of bytes holds those bytes (spec/10_state.md R29). -/
theorem toBuffer_toList {n : Nat} {bytes : List Byte} (h : bytes.length = n) : (toBuffer n bytes).toList = bytes := by
  subst h
  simp [toBuffer]

end Sys2Proof.Machine
end

