-- ==== Sys2Proof/Laws/Decode.lean ====
section
/-! SUPPORT. The phase codes and the phases are the same sixteen things (spec/30_encoding.md R88); the bytes of a transaction are read back as
that transaction (R74). -/

namespace Sys2Proof

@[simp] theorem Phase.ofCode_code (p : Phase) : Phase.ofCode p.code = p := by cases p <;> rfl

@[simp] theorem Phase.code_ofCode (c : BitVec 4) : (Phase.ofCode c).code = c := by revert c; decide

@[simp] theorem decode_command (cfg : Config) (c : BitVec 3) : decode cfg (.command c) = .ok (decodeCommand c) := rfl

@[simp] theorem decode_phase (cfg : Config) (c : BitVec 4) : decode cfg (.phase c) = .ok (decodePhase c) := rfl

/-- The wire address and the direction are read back from the address byte (spec/30_encoding.md R74). -/
@[simp] theorem wireAddr_addressByte (read : Bool) (a : BitVec 7) : Machine.wireAddr (Machine.addressByte read a) = a := by
  revert a; cases read <;> decide

@[simp] theorem msb_addressByte (read : Bool) (a : BitVec 7) : (Machine.addressByte read a).msb = read := by
  revert a; cases read <;> decide

/-- A transaction is read back from the bytes it sends. -/
@[simp] theorem transactionOf_sentBytes (tr : Transaction) : transactionOf (Machine.sentBytes tr) = .ok tr := by
  cases tr with
  | read a more => simp [Machine.sentBytes, Machine.readFrame, List.replicate_succ, transactionOf]
  | write a v => simp [Machine.sentBytes, Machine.writeFrame, transactionOf]

/-- Every transaction is a code of format A (R94 "the model has nothing to refuse"). -/
@[simp] theorem decode_sentBytes (cfg : Config) (tr : Transaction) :
    decode cfg (.frame (Machine.sentBytes tr)) = .ok (decodeTransaction cfg tr) := by
  simp [decode, decodeFrame]

end Sys2Proof
end

