-- ==== Sys2Proof/Laws/PerInstr.lean ====
section
/-! SUPPORT. A statement of every instruction as syntax, one lemma a constructor. Family `FrameHasData`: the encoding of a well-formed
instruction, where it is a bus frame, has an address byte and at least one data byte (spec/20_memory.md R44 "one or more
data-byte exchanges"), and its bit 7 says whether the engine reads (spec/30_encoding.md R74). -/

namespace Sys2Proof.Laws.FrameHasData

open Machine

/-- Whether a transaction is a read. -/
def isRead : Instr → Bool
  | .busRead _ _ | .busRdStatus | .busRdCal1 | .busRdCal2 | .busRdCtrlMeas | .busRdData => true
  | _ => false

/-- The statement of the family. -/
def Statement (i : Instr) : Prop :=
  ∀ (cfg : Config) (sent : List Byte), wellFormed cfg i = true → encode cfg i = .frame sent →
    ∃ b d ds, sent = b :: d :: ds ∧ b.msb = isRead i

theorem of_read {i : Instr} {a : Config → BitVec 7} {n : Nat} (hr : isRead i = true) (h : ∀ cfg, encode cfg i = .frame (readFrame (a cfg) (n + 1))) :
    Statement i := by
  intro cfg sent _ he
  rw [h cfg] at he
  cases he
  exact ⟨_, _, _, rfl, by simp [hr]⟩

theorem of_write {i : Instr} {a : Config → BitVec 7} {v : Byte} (hr : isRead i = false) (h : ∀ cfg, encode cfg i = .frame (writeFrame (a cfg) v)) :
    Statement i := by
  intro cfg sent _ he
  rw [h cfg] at he
  cases he
  exact ⟨_, _, _, rfl, by simp [hr]⟩

theorem init : Statement .init := fun _ _ _ h => nomatch h
theorem force : Statement .force := fun _ _ _ h => nomatch h
theorem getT : Statement .getT := fun _ _ _ h => nomatch h
theorem getP : Statement .getP := fun _ _ _ h => nomatch h
theorem getH : Statement .getH := fun _ _ _ h => nomatch h
theorem reserved000 : Statement .reserved000 := fun _ _ _ h => nomatch h
theorem reserved011 : Statement .reserved011 := fun _ _ _ h => nomatch h
theorem reserved111 : Statement .reserved111 := fun _ _ _ h => nomatch h

theorem busRead (a : BitVec 7) (n : Nat) : Statement (.busRead a n) := by
  intro cfg sent hw he
  cases n with
  | zero => simp [wellFormed] at hw
  | succ n => cases he; exact ⟨_, _, _, rfl, by simp [isRead]⟩

theorem busWrite (a : BitVec 7) (v : Byte) : Statement (.busWrite a v) := of_write (a := fun _ => a) rfl fun _ => rfl
theorem busWrReset (v : Byte) : Statement (.busWrReset v) := of_write rfl fun _ => rfl
theorem busRdStatus : Statement .busRdStatus := of_read rfl fun _ => rfl
theorem busRdCal1 : Statement .busRdCal1 := of_read rfl fun _ => rfl
theorem busRdCal2 : Statement .busRdCal2 := of_read rfl fun _ => rfl
theorem busWrCtrlHum (v : Byte) : Statement (.busWrCtrlHum v) := of_write rfl fun _ => rfl
theorem busWrCtrlMeas (v : Byte) : Statement (.busWrCtrlMeas v) := of_write rfl fun _ => rfl
theorem busRdCtrlMeas : Statement .busRdCtrlMeas := of_read rfl fun _ => rfl
theorem busRdData : Statement .busRdData := of_read rfl fun _ => rfl

theorem seqIdle : Statement .seqIdle := fun _ _ _ h => nomatch h
theorem seqResetWr : Statement .seqResetWr := fun _ _ _ h => nomatch h
theorem seqPollRd : Statement .seqPollRd := fun _ _ _ h => nomatch h
theorem seqPollWait : Statement .seqPollWait := fun _ _ _ h => nomatch h
theorem seqCal1Rd : Statement .seqCal1Rd := fun _ _ _ h => nomatch h
theorem seqCal2Rd : Statement .seqCal2Rd := fun _ _ _ h => nomatch h
theorem seqCalDecode : Statement .seqCalDecode := fun _ _ _ h => nomatch h
theorem seqCfgHumWr : Statement .seqCfgHumWr := fun _ _ _ h => nomatch h
theorem seqCfgMeasWr : Statement .seqCfgMeasWr := fun _ _ _ h => nomatch h
theorem seqForceRd : Statement .seqForceRd := fun _ _ _ h => nomatch h
theorem seqForceWr : Statement .seqForceWr := fun _ _ _ h => nomatch h
theorem seqDataRd : Statement .seqDataRd := fun _ _ _ h => nomatch h
theorem seqRawDecode : Statement .seqRawDecode := fun _ _ _ h => nomatch h
theorem seqCompT : Statement .seqCompT := fun _ _ _ h => nomatch h
theorem seqCompP : Statement .seqCompP := fun _ _ _ h => nomatch h
theorem seqCompH : Statement .seqCompH := fun _ _ _ h => nomatch h

end Sys2Proof.Laws.FrameHasData
end

