-- ==== Sys2Proof/Laws/Step.lean ====
section
/-! SUPPORT. The inversion of `step`: the ways a step can answer a next state. -/

namespace Sys2Proof.Machine

/-- A step of a machine that runs is its phase's meaning. -/
theorem step_of_runs {s : State} (h : Safety.Runs s) : step s = exec (decodePhase s.seq.code) s := by
  obtain ⟨hc, hr, hh, hb⟩ := h
  simp [step, hc, hr, hh, hb]

/-- The four ways a step answers a next state: `rst`, no progress in a hung call, a transaction placed from outside, or the phase in
`SEQ`. -/
theorem step_next_cases {s t : State} (h : step s = .next t) :
    s.cfg.ok = true ∧
      ((s.rst = true ∧ t = hardwareReset s) ∨
        (s.rst = false ∧ s.hung = true ∧ t = s) ∨
        (s.rst = false ∧ s.hung = false ∧ ∃ tr, s.busReq = some tr ∧
          exec (decodeTransaction s.cfg tr) { s with busReq := none } = .next t) ∨
        (Safety.Runs s ∧ exec (decodePhase s.seq.code) s = .next t)) := by
  unfold step at h
  split at h
  · cases h
  · rename_i hc
    have hok : s.cfg.ok = true := by simpa using hc
    refine ⟨hok, ?_⟩
    split at h
    · rename_i hr
      cases h
      exact .inl ⟨hr, rfl⟩
    · rename_i hr
      have hrst : s.rst = false := by simpa using hr
      split at h
      · rename_i hh
        cases h
        exact .inr (.inl ⟨hrst, hh, rfl⟩)
      · rename_i hh
        have hhung : s.hung = false := by simpa using hh
        split at h
        · rename_i tr hb
          exact .inr (.inr (.inl ⟨hrst, hhung, tr, hb, h⟩))
        · rename_i hb
          exact .inr (.inr (.inr ⟨⟨hok, hrst, hhung, hb⟩, h⟩))

end Sys2Proof.Machine
end

