-- ==== Sys2Proof/Laws/Transaction.lean ====
section
/-! SUPPORT. What a run of byte exchanges does, in the terms of Safety.lean: it delivers, fails at one exchange, is cut off by `rst`, or
hangs, and in each case exactly so changes the state. From these follow the same four cases for `transact`, `busRead` and `busWrite`. -/

namespace Sys2Proof.Machine

open Safety

/-- Exchanges that all succeed: one event and one answer used for each byte (spec/20_memory.md R43, R48). -/
theorem exchanges_delivers {sent rx : List Byte} {s : State} (h : deliversFrom s.answers s.hist sent rx = true) :
    exchanges sent s = (.done rx, { s with hist := s.hist ++ List.zipWith .xfer sent rx, answers := s.answers.drop rx.length }) := by
  induction sent generalizing rx s with
  | nil => cases rx with
    | nil => simp
    | cons => simp [deliversFrom] at h
  | cons tx sent ih => cases rx with
    | nil => simp [deliversFrom] at h
    | cons r rx =>
      simp only [deliversFrom, Bool.and_eq_true, beq_iff_eq] at h
      have := ih (s := { s with answers := s.answers.tail, hist := s.hist ++ [.xfer tx r] }) h.2
      rw [exchanges_cons_ok sent h.1, this]
      simp

/-- Exchanges that one exchange ends, by failing, by `rst` or by never returning: its events are the last (spec/20_memory.md R51,
spec/70_reset_and_hazards.md R250, spec/41_measurement_controller.md R162). -/
theorem exchanges_stops {sent rx : List Byte} {s : State} {stop : Answer} {r : BusResult} (hr : stopResult stop = some r)
    (h : stopsFrom stop s.answers s.hist sent rx = true) :
    exchanges sent s = (r, { s with
      hist := s.hist ++ List.zipWith .xfer sent rx ++ stopEvents (sent.getD rx.length 0) stop
      answers := s.answers.drop (rx.length + 1)
      hung := s.hung || stop == .hang }) := by
  induction sent generalizing rx s with
  | nil => cases rx <;> simp [stopsFrom] at h
  | cons tx sent ih => cases rx with
    | nil =>
      simp only [stopsFrom, beq_iff_eq] at h
      rw [exchanges_cons_stop sent h hr]; simp
    | cons x rx =>
      simp only [stopsFrom, Bool.and_eq_true, beq_iff_eq] at h
      have := ih (s := { s with answers := s.answers.tail, hist := s.hist ++ [.xfer tx x] }) h.2
      rw [exchanges_cons_ok sent h.1, this]
      rcases stopResult_cases hr with ⟨-, rfl⟩ | ⟨-, rfl⟩ | ⟨-, rfl⟩ <;> simp

/-- Delivered bytes are as many as the bytes sent. -/
theorem deliversFrom_length {as : List Answer} {h : List BusEvent} {sent rx : List Byte} (hd : deliversFrom as h sent rx = true) :
    rx.length = sent.length := by
  induction sent generalizing as h rx with
  | nil => cases rx <;> simp [deliversFrom] at hd ⊢
  | cons tx sent ih => cases rx with
    | nil => simp [deliversFrom] at hd
    | cons r rx => simp only [deliversFrom, Bool.and_eq_true] at hd; simp [ih hd.2]

/-- What was received before the exchange that ends a transaction is less than what was to be sent. -/
theorem stopsFrom_length {stop : Answer} {as : List Answer} {h : List BusEvent} {sent rx : List Byte}
    (hs : stopsFrom stop as h sent rx = true) : rx.length < sent.length := by
  induction sent generalizing as h rx with
  | nil => cases rx <;> simp [stopsFrom] at hs
  | cons tx sent ih => cases rx with
    | nil => simp
    | cons r rx => simp only [stopsFrom, Bool.and_eq_true] at hs; simp [ih hs.2]

/-- The bus does one of two things: it delivers, or one answer ends the exchanges. -/
theorem delivers_or_stops (as : List Answer) (h : List BusEvent) (sent : List Byte) :
    (∃ rx, deliversFrom as h sent rx = true) ∨ (∃ rx stop r, stopResult stop = some r ∧ stopsFrom stop as h sent rx = true) := by
  induction sent generalizing as h with
  | nil => exact .inl ⟨[], rfl⟩
  | cons tx sent ih =>
    cases ha : stopResult (nextAnswer as h tx) with
    | some r => exact .inr ⟨[], _, r, ha, by simp [stopsFrom]⟩
    | none =>
      obtain ⟨x, hx⟩ : ∃ x, nextAnswer as h tx = .ok x := by
        cases hn : nextAnswer as h tx <;> simp [hn, stopResult] at ha ⊢
      rcases ih as.tail (h ++ [.xfer tx x]) with ⟨rx, hd⟩ | ⟨rx, stop, r, hr, hd⟩
      · exact .inl ⟨x :: rx, by simp [deliversFrom, hx, hd]⟩
      · exact .inr ⟨x :: rx, stop, r, hr, by simp [stopsFrom, hx, hd]⟩

/-- Answers scripted as successes are delivered, whatever was before. -/
theorem deliversFrom_scripted {rx sent : List Byte} {rest : List Answer} {h : List BusEvent} (hl : rx.length = sent.length) :
    deliversFrom (rx.map .ok ++ rest) h sent rx = true := by
  induction sent generalizing rx h with
  | nil => cases rx <;> simp [deliversFrom] at hl ⊢
  | cons tx sent ih => cases rx with
    | nil => simp at hl
    | cons r rx => simp [deliversFrom, nextAnswer, ih (by simpa using hl)]

/-- With no `rst` in the script, no exchange is cut off: the oracle never answers one. -/
theorem stopsFrom_reset_eq_false {as : List Answer} {h : List BusEvent} {sent rx : List Byte} {stop : Answer} (hi : stop.isReset = true)
    (hn : ∀ a ∈ as, a.isReset = false) : stopsFrom stop as h sent rx = false := by
  induction sent generalizing as h rx with
  | nil => cases rx <;> rfl
  | cons tx sent ih =>
    have key : nextAnswer as h tx ≠ stop := by
      rintro rfl
      unfold nextAnswer at hi
      cases as with
      | nil => simp only at hi; split at hi <;> cases hi
      | cons a as => simp [hn a] at hi
    cases rx with
    | nil => simp [stopsFrom, key]
    | cons r rx => simp [stopsFrom]; intro _; exact ih (fun a hm => hn a (List.mem_of_mem_tail hm))

/-- A complete transaction (spec/20_memory.md R44). -/
theorem transact_of_delivers {s : State} {sent rx : List Byte} (h : Delivers s sent rx) : transact sent s = (.done rx, afterDone s sent rx) := by
  rw [transact_eq, exchanges_delivers (s := select false s) h]
  simp [afterDone, transactionEvents, select, record]

/-- A transaction an exchange of which fails (spec/20_memory.md R51). -/
theorem transact_of_fails {s : State} {sent rx : List Byte} (h : FailsAfter s sent rx) : transact sent s = (.failed, afterFailure s sent rx) := by
  rw [transact_eq, exchanges_stops (s := select false s) (r := .failed) rfl h]
  simp [afterFailure, failureEvents, select, record, stopEvents]

/-- A transaction cut off by `rst`, and what the hardware reset makes of it (spec/70_reset_and_hazards.md R250). -/
theorem transact_of_resets {s : State} {sent rx : List Byte} {stop : Answer} (h : ResetAfter s sent rx stop) :
    ∃ t, transact sent s = (.reset, t) ∧ hardwareReset t = afterReset s sent rx stop := by
  refine ⟨_, by rw [transact_eq, exchanges_stops (s := select false s) (stopResult_of_isReset h.1) h.2], ?_⟩
  simp [afterReset, hardwareReset, select, record]

/-- A transaction an exchange of which never returns (spec/41_measurement_controller.md R162). -/
theorem transact_of_hangs {s : State} {sent rx : List Byte} (h : HangsAfter s sent rx) : transact sent s = (.hung, afterHang s sent rx) := by
  rw [transact_eq, exchanges_stops (s := select false s) (r := .hung) rfl h]
  simp [afterHang, select, record, stopEvents]

/-- The one inversion lemma of a transaction: the bus delivers, an exchange fails, `rst` comes, or an exchange hangs. What the transaction
answers then is said by the four lemmas above. -/
theorem bus_cases (s : State) (sent : List Byte) :
    (∃ rx, Delivers s sent rx ∧ rx.length = sent.length) ∨ (∃ rx, FailsAfter s sent rx) ∨ (∃ rx stop, ResetAfter s sent rx stop) ∨
      (∃ rx, HangsAfter s sent rx) := by
  rcases delivers_or_stops s.answers (s.hist ++ [.sel false]) sent with ⟨rx, h⟩ | ⟨rx, stop, r, hr, h⟩
  · exact .inl ⟨rx, h, deliversFrom_length h⟩
  · rcases stopResult_cases hr with ⟨rfl, -⟩ | ⟨hi, -⟩ | ⟨rfl, -⟩
    · exact .inr (.inl ⟨rx, h⟩)
    · exact .inr (.inr (.inl ⟨rx, stop, hi, h⟩))
    · exact .inr (.inr (.inr ⟨rx, h⟩))

/-- A complete `BusRead`: the bytes after the discarded one (spec/20_memory.md R45, R49). -/
theorem busRead_of_delivers {a : BitVec 7} {n : Nat} {s : State} {x : Byte} {bytes : List Byte}
    (h : Delivers s (readFrame a n) (x :: bytes)) :
    busRead a n s = (.done bytes, afterDone s (readFrame a n) (x :: bytes)) := by
  rw [busRead_done (transact_of_delivers h), List.tail_cons]

/-- A `BusRead` an exchange of which fails (spec/20_memory.md R51). -/
theorem busRead_of_fails {a : BitVec 7} {n : Nat} {s : State} {rx : List Byte} (h : FailsAfter s (readFrame a n) rx) :
    busRead a n s = (.failed, afterFailure s (readFrame a n) rx) := busRead_failed (transact_of_fails h)

/-- A complete `BusWrite` (spec/20_memory.md R50). -/
theorem busWrite_of_delivers {a : BitVec 7} {v : Byte} {s : State} {rx : List Byte} (h : Delivers s (writeFrame a v) rx) :
    busWrite a v s = (.done [], afterDone s (writeFrame a v) rx) := busWrite_done (transact_of_delivers h)

/-- A `BusWrite` an exchange of which fails (spec/20_memory.md R51). -/
theorem busWrite_of_fails {a : BitVec 7} {v : Byte} {s : State} {rx : List Byte} (h : FailsAfter s (writeFrame a v) rx) :
    busWrite a v s = (.failed, afterFailure s (writeFrame a v) rx) := busWrite_failed (transact_of_fails h)

/-- A `BusRead` cut off by `rst`: what the hardware reset makes of it (spec/70_reset_and_hazards.md R250). -/
theorem busRead_of_resets {a : BitVec 7} {n : Nat} {s : State} {rx : List Byte} {stop : Answer} (h : ResetAfter s (readFrame a n) rx stop) :
    ∃ t, busRead a n s = (.reset, t) ∧ hardwareReset t = afterReset s (readFrame a n) rx stop := by
  obtain ⟨t, h1, h2⟩ := transact_of_resets h
  exact ⟨t, by rw [busRead, h1], h2⟩

/-- A `BusWrite` cut off by `rst`. -/
theorem busWrite_of_resets {a : BitVec 7} {v : Byte} {s : State} {rx : List Byte} {stop : Answer} (h : ResetAfter s (writeFrame a v) rx stop) :
    ∃ t, busWrite a v s = (.reset, t) ∧ hardwareReset t = afterReset s (writeFrame a v) rx stop := by
  obtain ⟨t, h1, h2⟩ := transact_of_resets h
  exact ⟨t, by rw [busWrite, h1], h2⟩

/-- A `BusRead` that hangs (spec/41_measurement_controller.md R162). -/
theorem busRead_of_hangs {a : BitVec 7} {n : Nat} {s : State} {rx : List Byte} (h : HangsAfter s (readFrame a n) rx) :
    busRead a n s = (.hung, afterHang s (readFrame a n) rx) := by rw [busRead, transact_of_hangs h]

/-- A `BusWrite` that hangs. -/
theorem busWrite_of_hangs {a : BitVec 7} {v : Byte} {s : State} {rx : List Byte} (h : HangsAfter s (writeFrame a v) rx) :
    busWrite a v s = (.hung, afterHang s (writeFrame a v) rx) := by rw [busWrite, transact_of_hangs h]

/-- A phase that reads: its four outcomes (spec/41_measurement_controller.md R161, R162). -/
theorem busPhase_read_cases (d : During) (a : BitVec 7) (n : Nat) (s : State) :
    (∃ x bytes, Delivers s (readFrame a n) (x :: bytes) ∧ bytes.length = n ∧
      ∀ commit, busPhase d commit (busRead a n s) = commit bytes (afterDone s (readFrame a n) (x :: bytes))) ∨
    (∃ rx, FailsAfter s (readFrame a n) rx ∧
      ∀ commit, busPhase d commit (busRead a n s) = raise .transportFailure d (afterFailure s (readFrame a n) rx)) ∨
    (∃ rx stop, ResetAfter s (readFrame a n) rx stop ∧
      ∀ commit, busPhase d commit (busRead a n s) = afterReset s (readFrame a n) rx stop) ∨
    (∃ rx, HangsAfter s (readFrame a n) rx ∧ ∀ commit, busPhase d commit (busRead a n s) = afterHang s (readFrame a n) rx) := by
  rcases bus_cases s (readFrame a n) with ⟨rx, h, hl⟩ | ⟨rx, h⟩ | ⟨rx, stop, h⟩ | ⟨rx, h⟩
  · cases rx with
    | nil => simp [readFrame] at hl
    | cons x bytes => exact .inl ⟨x, bytes, h, by simpa [readFrame] using hl, fun c => by rw [busRead_of_delivers h]; rfl⟩
  · exact .inr (.inl ⟨rx, h, fun c => by rw [busRead_of_fails h]; rfl⟩)
  · obtain ⟨t, h1, h2⟩ := busRead_of_resets h
    exact .inr (.inr (.inl ⟨rx, stop, h, fun c => by rw [h1]; exact h2⟩))
  · exact .inr (.inr (.inr ⟨rx, h, fun c => by rw [busRead_of_hangs h]; rfl⟩))

/-- A phase that writes: its four outcomes (spec/41_measurement_controller.md R161, R162). -/
theorem busPhase_write_cases (d : During) (a : BitVec 7) (v : Byte) (s : State) :
    (∃ rx, Delivers s (writeFrame a v) rx ∧
      ∀ commit, busPhase d commit (busWrite a v s) = commit [] (afterDone s (writeFrame a v) rx)) ∨
    (∃ rx, FailsAfter s (writeFrame a v) rx ∧
      ∀ commit, busPhase d commit (busWrite a v s) = raise .transportFailure d (afterFailure s (writeFrame a v) rx)) ∨
    (∃ rx stop, ResetAfter s (writeFrame a v) rx stop ∧
      ∀ commit, busPhase d commit (busWrite a v s) = afterReset s (writeFrame a v) rx stop) ∨
    (∃ rx, HangsAfter s (writeFrame a v) rx ∧ ∀ commit, busPhase d commit (busWrite a v s) = afterHang s (writeFrame a v) rx) := by
  rcases bus_cases s (writeFrame a v) with ⟨rx, h, hl⟩ | ⟨rx, h⟩ | ⟨rx, stop, h⟩ | ⟨rx, h⟩
  · exact .inl ⟨rx, h, fun c => by rw [busWrite_of_delivers h]; rfl⟩
  · exact .inr (.inl ⟨rx, h, fun c => by rw [busWrite_of_fails h]; rfl⟩)
  · obtain ⟨t, h1, h2⟩ := busWrite_of_resets h
    exact .inr (.inr (.inl ⟨rx, stop, h, fun c => by rw [h1]; exact h2⟩))
  · exact .inr (.inr (.inr ⟨rx, h, fun c => by rw [busWrite_of_hangs h]; rfl⟩))

/-- The buffer filled with a buffer's bytes is that buffer. -/
@[simp] theorem toBuffer_toList_self {n : Nat} (b : Vector Byte n) : toBuffer n b.toList = b :=
  Vector.toList_inj.mp (toBuffer_toList (by simp))

@[simp] theorem toBuffer_one (b : Byte) : (toBuffer 1 [b])[0] = b := by simp [toBuffer]

/-- A list of `n` bytes is the contents of a buffer. -/
theorem exists_buffer {n : Nat} {l : List Byte} (h : l.length = n) : ∃ b : Vector Byte n, l = b.toList := by
  subst h; exact ⟨⟨l.toArray, by simp⟩, by simp⟩

end Sys2Proof.Machine
end

