-- ==== Sys2Proof/Laws/Phase.lean ====
section
/-! SUPPORT. The inversion of a step: everything the phase in `SEQ` can do, said once (`PhaseStep`), everything a step can do (`StepEffect`), and
the inversions they are put together from. A statement about every step is a case analysis over `StepEffect`. -/

namespace Sys2Proof.Machine

open Safety

/-- `CALVALID` as a condition on `SSTATE` (spec/10_state.md R23). -/
theorem calvalid_iff (s : State) : s.calvalid = true ↔ s.sstate = .idle ∨ s.sstate = .measuring ∨ s.sstate = .dataReady := by
  simp [State.calvalid, or_assoc]

/-- The one inversion lemma of dispatch (spec/41_measurement_controller.md R130): an error, or the command is accepted. -/
theorem dispatch_cases {c : BitVec 3} {s t : State} (h : dispatch c s = .next t) :
    (∃ e, (e = .notCalibrated ∨ e = .refused) ∧ t = raise e .dispatch { s with cmdreg := c }) ∨
    (c = 0b001#3 ∧ s.sstate = .reset ∧ t = { s with cmdreg := c, seq := .resetWr }) ∨
    (c = 0b010#3 ∧ s.calvalid = true ∧ t = { s with cmdreg := c, sstate := .idle, seq := .forceRd }) ∨
    ((c = 0b100#3 ∨ c = 0b101#3 ∨ c = 0b110#3) ∧ s.sstate = .dataReady ∧
      t = respond .ok (accessorData { s with cmdreg := c }) { s with cmdreg := c }) ∨
    ((c = 0b100#3 ∨ c = 0b101#3 ∨ c = 0b110#3) ∧ (s.sstate = .idle ∨ s.sstate = .measuring) ∧
      t = { s with cmdreg := c, seq := .dataRd }) := by
  have acc : ∀ (c : BitVec 3) (out : Word), (c = 0b100#3 ∨ c = 0b101#3 ∨ c = 0b110#3) → out = accessorData { s with cmdreg := c } →
      acceptAccessor c out s = t → _ := fun c out hc ho ht => by
    show (∃ e, (e = Error.notCalibrated ∨ e = .refused) ∧ t = raise e .dispatch { s with cmdreg := c }) ∨
      (c = 0b001#3 ∧ s.sstate = .reset ∧ t = { s with cmdreg := c, seq := .resetWr }) ∨
      (c = 0b010#3 ∧ s.calvalid = true ∧ t = { s with cmdreg := c, sstate := .idle, seq := .forceRd }) ∨
      ((c = 0b100#3 ∨ c = 0b101#3 ∨ c = 0b110#3) ∧ s.sstate = .dataReady ∧
        t = respond .ok (accessorData { s with cmdreg := c }) { s with cmdreg := c }) ∨
      ((c = 0b100#3 ∨ c = 0b101#3 ∨ c = 0b110#3) ∧ (s.sstate = .idle ∨ s.sstate = .measuring) ∧
        t = { s with cmdreg := c, seq := .dataRd })
    subst ho
    cases hs : s.sstate <;> simp only [acceptAccessor, hs] at ht <;> subst ht
    · exact .inl ⟨_, .inl rfl, rfl⟩
    · exact .inr (.inr (.inr (.inr ⟨hc, .inl rfl, rfl⟩)))
    · exact .inr (.inr (.inr (.inr ⟨hc, .inr rfl, rfl⟩)))
    · exact .inr (.inr (.inr (.inl ⟨hc, rfl, rfl⟩)))
    · exact .inl ⟨_, .inl rfl, rfl⟩
  have all : ∀ c : BitVec 3, c = 0 ∨ c = 1 ∨ c = 2 ∨ c = 3 ∨ c = 4 ∨ c = 5 ∨ c = 6 ∨ c = 7 := by decide
  rcases all c with rfl | rfl | rfl | rfl | rfl | rfl | rfl | rfl <;> cases h
  · exact .inl ⟨.refused, .inr rfl, rfl⟩
  · unfold acceptInit
    by_cases hs : s.sstate = .reset
    · exact .inr (.inl ⟨rfl, hs, by simp [hs]⟩)
    · exact .inl ⟨.refused, .inr rfl, by simp [hs]⟩
  · unfold acceptForce
    cases hs : s.calvalid
    · exact .inl ⟨.notCalibrated, .inl rfl, by simp⟩
    · exact .inr (.inr (.inl ⟨rfl, rfl, by simp⟩))
  · exact .inl ⟨.refused, .inr rfl, rfl⟩
  · exact acc _ _ (.inl rfl) rfl rfl
  · exact acc _ _ (.inr (.inl rfl)) rfl rfl
  · exact acc _ _ (.inr (.inr rfl)) rfl rfl
  · exact .inl ⟨.refused, .inr rfl, rfl⟩

/-- `IDLE` waits or dispatches. -/
theorem seqIdle_cases {s t : State} (h : execSeqIdle s = .next t) :
    (s.cmds = [] ∧ t = s) ∨ ∃ c cs, s.cmds = c :: cs ∧ dispatch c { s with cmds := cs } = .next t := by
  unfold execSeqIdle at h
  split at h
  · cases h; exact .inl ⟨‹_›, rfl⟩
  · exact .inr ⟨_, _, ‹_›, h⟩

/-- The three ways on from a status byte (spec/41_measurement_controller.md R133). -/
theorem pollTest_cases (b : Byte) (s : State) :
    (b.getLsbD 0 = false ∧ pollTest b s = { s with pollcnt := s.pollcnt + 1, seq := .cal1Rd }) ∨
    (b.getLsbD 0 = true ∧ (∀ l, s.cfg.pollLimit = some l → s.pollcnt + 1 < l) ∧ pollTest b s = { s with pollcnt := s.pollcnt + 1, seq := .pollWait }) ∨
    (b.getLsbD 0 = true ∧ (∃ l, s.cfg.pollLimit = some l ∧ l ≤ s.pollcnt + 1) ∧ pollTest b s = raise .initTimeout .init { s with pollcnt := s.pollcnt + 1 }) := by
  unfold pollTest
  cases hb : b.getLsbD 0
  · simp
  · cases hl : s.cfg.pollLimit with
    | none => simp
    | some l =>
      by_cases hh : l ≤ s.pollcnt + 1
      · right; right; simp [hh]
      · right; left; simp [hh]; omega

/-- The command whose phase a bus phase is, which decides the state effect of an error in it (spec/60_exceptions.md R219 to R221). -/
def duringOf : Phase → During
  | .forceRd | .forceWr => .force
  | .dataRd => .fetch
  | .idle | .resetWr | .pollRd | .pollWait | .cal1Rd | .cal2Rd | .calDecode | .cfgHumWr | .cfgMeasWr => .init
  | .rawDecode | .compT | .compP | .compH => .fetch

/-- Everything the phase in `SEQ` can do: the effect column of the table of spec/41_measurement_controller.md R161, and for a bus phase the
error, the reset, and the exchange that never returns (R162). -/
inductive PhaseStep (s : State) : State → Prop where
  | wait (h : s.seq = .idle) (hc : s.cmds = []) : PhaseStep s s
  | refuse (h : s.seq = .idle) {c : BitVec 3} {cs : List (BitVec 3)} (hc : s.cmds = c :: cs) {e : Error}
      (he : e = .notCalibrated ∨ e = .refused) : PhaseStep s (raise e .dispatch { s with cmds := cs, cmdreg := c })
  | init (h : s.seq = .idle) {cs : List (BitVec 3)} (hc : s.cmds = 0b001#3 :: cs) (hs : s.sstate = .reset) :
      PhaseStep s { s with cmds := cs, cmdreg := 0b001#3, seq := .resetWr }
  | force (h : s.seq = .idle) {cs : List (BitVec 3)} (hc : s.cmds = 0b010#3 :: cs) (hs : s.calvalid = true) :
      PhaseStep s { s with cmds := cs, cmdreg := 0b010#3, sstate := .idle, seq := .forceRd }
  | cached (h : s.seq = .idle) {c : BitVec 3} {cs : List (BitVec 3)} (hc : s.cmds = c :: cs)
      (ha : c = 0b100#3 ∨ c = 0b101#3 ∨ c = 0b110#3) (hs : s.sstate = .dataReady) :
      PhaseStep s { s with
        cmds := cs
        cmdreg := c
        seq := .idle
        responses := s.responses ++
          [{ status := .ok, data := if c = 0b100#3 then s.outT else if c = 0b101#3 then s.outP else s.outH }] }
  | fetch (h : s.seq = .idle) {c : BitVec 3} {cs : List (BitVec 3)} (hc : s.cmds = c :: cs)
      (ha : c = 0b100#3 ∨ c = 0b101#3 ∨ c = 0b110#3) (hs : s.sstate = .idle ∨ s.sstate = .measuring) :
      PhaseStep s { s with cmds := cs, cmdreg := c, seq := .dataRd }
  | resetWr (h : s.seq = .resetWr) {rx : List Byte} (hd : Delivers s (writeFrame (wireAddr s.cfg.aReset) s.cfg.vReset) rx) :
      PhaseStep s { afterDone s (writeFrame (wireAddr s.cfg.aReset) s.cfg.vReset) rx with pollcnt := 0, seq := .pollRd }
  | pollRd (h : s.seq = .pollRd) {x b : Byte} (hd : Delivers s (readFrame (wireAddr s.cfg.aStatus) 1) [x, b]) :
      PhaseStep s (pollTest b (afterDone s (readFrame (wireAddr s.cfg.aStatus) 1) [x, b]))
  | pollWait (h : s.seq = .pollWait) (hd : s.delays.headD true = true) :
      PhaseStep s { s with hist := s.hist ++ [.delay 2], delays := s.delays.tail, seq := .pollRd }
  | pollWaitHangs (h : s.seq = .pollWait) (hd : s.delays.headD true = false) :
      PhaseStep s { s with hist := s.hist ++ [.delay 2], delays := s.delays.tail, hung := true }
  | cal1Rd (h : s.seq = .cal1Rd) {x : Byte} {block : Vector Byte 26}
      (hd : Delivers s (readFrame (wireAddr s.cfg.aCal1) 26) (x :: block.toList)) :
      PhaseStep s { afterDone s (readFrame (wireAddr s.cfg.aCal1) 26) (x :: block.toList) with calbuf1 := block, seq := .cal2Rd }
  | cal2Rd (h : s.seq = .cal2Rd) {x : Byte} {block : Vector Byte 8}
      (hd : Delivers s (readFrame (wireAddr s.cfg.aCal2) 8) (x :: block.toList)) :
      PhaseStep s { afterDone s (readFrame (wireAddr s.cfg.aCal2) 8) (x :: block.toList) with calbuf2 := block, seq := .calDecode }
  | calDecode (h : s.seq = .calDecode) : PhaseStep s { s with cal := decodeCal s.calbuf1 s.calbuf2, seq := .cfgHumWr }
  | cfgHumWr (h : s.seq = .cfgHumWr) {rx : List Byte} (hd : Delivers s (writeFrame (wireAddr s.cfg.aCtrlHum) (humByte s.cfg)) rx) :
      PhaseStep s { afterDone s (writeFrame (wireAddr s.cfg.aCtrlHum) (humByte s.cfg)) rx with seq := .cfgMeasWr }
  | cfgMeasWr (h : s.seq = .cfgMeasWr) {rx : List Byte}
      (hd : Delivers s (writeFrame (wireAddr s.cfg.aCtrlMeas) (sleepByte s.cfg)) rx) :
      PhaseStep s { afterDone s (writeFrame (wireAddr s.cfg.aCtrlMeas) (sleepByte s.cfg)) rx with
        sstate := .idle
        seq := .idle
        responses := s.responses ++ [{ status := .ok, data := 0 }] }
  | forceRd (h : s.seq = .forceRd) {x m : Byte} (hd : Delivers s (readFrame (wireAddr s.cfg.aCtrlMeas) 1) [x, m]) :
      PhaseStep s { afterDone s (readFrame (wireAddr s.cfg.aCtrlMeas) 1) [x, m] with mreg := m, seq := .forceWr }
  | forceWr (h : s.seq = .forceWr) {rx : List Byte}
      (hd : Delivers s (writeFrame (wireAddr s.cfg.aCtrlMeas) (forcedByte s.mreg)) rx) :
      PhaseStep s { afterDone s (writeFrame (wireAddr s.cfg.aCtrlMeas) (forcedByte s.mreg)) rx with
        sstate := .measuring
        seq := .idle
        responses := s.responses ++ [{ status := .ok, data := 0 }] }
  | dataRd (h : s.seq = .dataRd) {x : Byte} {block : Vector Byte 8}
      (hd : Delivers s (readFrame (wireAddr s.cfg.aData) 8) (x :: block.toList)) :
      PhaseStep s { afterDone s (readFrame (wireAddr s.cfg.aData) 8) (x :: block.toList) with databuf := block, seq := .rawDecode }
  | rawDecode (h : s.seq = .rawDecode) : PhaseStep s { s with
      rawP := count20 s.databuf[0] s.databuf[1] s.databuf[2]
      rawT := count20 s.databuf[3] s.databuf[4] s.databuf[5]
      rawH := count16 s.databuf[6] s.databuf[7]
      seq := .compT }
  | compT (h : s.seq = .compT) :
      PhaseStep s { s with tfine := compTfine s.rawT s.cal, outT := compOutT (compTfine s.rawT s.cal), seq := .compP }
  | compP (h : s.seq = .compP) : PhaseStep s { s with outP := compOutP s.rawP s.tfine s.cal, seq := .compH }
  | compH (h : s.seq = .compH) :
      PhaseStep s { s with
        outH := compOutH s.rawH s.tfine s.cal
        sstate := .dataReady
        seq := .idle
        responses := s.responses ++ [{ status := .ok, data :=
          if s.cmdreg = 0b100#3 then s.outT else if s.cmdreg = 0b101#3 then s.outP
          else if s.cmdreg = 0b110#3 then compOutH s.rawH s.tfine s.cal else 0 }] }
  | failed (h : s.seq ∈ busPhases) {sent rx : List Byte} (hp : phaseFrame s (decodePhase s.seq.code) = some sent)
      (hd : FailsAfter s sent rx) : PhaseStep s (raise .transportFailure (duringOf s.seq) (afterFailure s sent rx))
  | cutOff (h : s.seq ∈ busPhases) {sent rx : List Byte} {stop : Answer} (hp : phaseFrame s (decodePhase s.seq.code) = some sent)
      (hd : ResetAfter s sent rx stop) : PhaseStep s (afterReset s sent rx stop)
  | hangs (h : s.seq ∈ busPhases) {sent rx : List Byte} (hp : phaseFrame s (decodePhase s.seq.code) = some sent)
      (hd : HangsAfter s sent rx) : PhaseStep s (afterHang s sent rx)

/-- A phase that answers a next state did one of these. -/
theorem phaseStep_of_exec {s t : State} (h : exec (decodePhase s.seq.code) s = .next t) : PhaseStep s t := by
  have reads : ∀ {d commit a n}, Host.Outcome.next (busPhase d commit (busRead a n s)) = (.next t : Host.Outcome State Fault Refusal) →
      (∃ x bytes, Delivers s (readFrame a n) (x :: bytes) ∧ bytes.length = n ∧
        t = commit bytes (afterDone s (readFrame a n) (x :: bytes))) ∨
      (∃ rx, FailsAfter s (readFrame a n) rx ∧ t = raise .transportFailure d (afterFailure s (readFrame a n) rx)) ∨
      (∃ rx stop, ResetAfter s (readFrame a n) rx stop ∧ t = afterReset s (readFrame a n) rx stop) ∨
      (∃ rx, HangsAfter s (readFrame a n) rx ∧ t = afterHang s (readFrame a n) rx) := by
    intro d commit a n h
    rw [← Host.Outcome.next.inj h]
    rcases busPhase_read_cases d a n s with ⟨x, b, hd, hl, he⟩ | ⟨rx, hd, he⟩ | ⟨rx, stop, hd, he⟩ | ⟨rx, hd, he⟩
    · exact .inl ⟨x, b, hd, hl, he _⟩
    · exact .inr (.inl ⟨rx, hd, he _⟩)
    · exact .inr (.inr (.inl ⟨rx, stop, hd, he _⟩))
    · exact .inr (.inr (.inr ⟨rx, hd, he _⟩))
  have writes : ∀ {d commit a v}, Host.Outcome.next (busPhase d commit (busWrite a v s)) = (.next t : Host.Outcome State Fault Refusal) →
      (∃ rx, Delivers s (writeFrame a v) rx ∧ t = commit [] (afterDone s (writeFrame a v) rx)) ∨
      (∃ rx, FailsAfter s (writeFrame a v) rx ∧ t = raise .transportFailure d (afterFailure s (writeFrame a v) rx)) ∨
      (∃ rx stop, ResetAfter s (writeFrame a v) rx stop ∧ t = afterReset s (writeFrame a v) rx stop) ∨
      (∃ rx, HangsAfter s (writeFrame a v) rx ∧ t = afterHang s (writeFrame a v) rx) := by
    intro d commit a v h
    rw [← Host.Outcome.next.inj h]
    rcases busPhase_write_cases d a v s with ⟨rx, hd, he⟩ | ⟨rx, hd, he⟩ | ⟨rx, stop, hd, he⟩ | ⟨rx, hd, he⟩
    · exact .inl ⟨rx, hd, he _⟩
    · exact .inr (.inl ⟨rx, hd, he _⟩)
    · exact .inr (.inr (.inl ⟨rx, stop, hd, he _⟩))
    · exact .inr (.inr (.inr ⟨rx, hd, he _⟩))
  cases hq : s.seq with
  | idle =>
    rw [hq] at h
    rcases seqIdle_cases h with ⟨hc, rfl⟩ | ⟨c, cs, hc, hd⟩
    · exact .wait hq hc
    · rcases dispatch_cases hd with ⟨e, he, rfl⟩ | ⟨rfl, hs, rfl⟩ | ⟨rfl, hs, rfl⟩ | ⟨ha, hs, rfl⟩ | ⟨ha, hs, rfl⟩
      · exact .refuse hq hc he
      · exact .init hq hc hs
      · exact .force hq hc hs
      · have := PhaseStep.cached hq hc ha hs
        rcases ha with rfl | rfl | rfl <;> exact this
      · exact .fetch hq hc ha hs
  | pollWait =>
    rw [hq] at h
    replace h : execSeqPollWait s = .next t := h
    cases hd : s.delays.headD true
    · rw [execSeqPollWait, delay_hangs _ hd] at h; cases h; exact .pollWaitHangs hq hd
    · rw [execSeqPollWait, delay_returns _ hd] at h; cases h; exact .pollWait hq hd
  | calDecode => rw [hq] at h; cases h; exact .calDecode hq
  | rawDecode => rw [hq] at h; cases h; exact .rawDecode hq
  | compT => rw [hq] at h; cases h; exact .compT hq
  | compP => rw [hq] at h; cases h; exact .compP hq
  | compH =>
    rw [hq] at h
    have h2 : exec .seqCompH s = .next t := h
    rw [exec, execSeqCompH] at h2
    simp only [respond, accessorData] at h2
    rw [← Host.Outcome.next.inj h2]
    exact .compH hq
  | resetWr =>
    rw [hq] at h
    rcases writes h with ⟨rx, hd, rfl⟩ | ⟨rx, hd, rfl⟩ | ⟨rx, stop, hd, rfl⟩ | ⟨rx, hd, rfl⟩
    · exact .resetWr hq hd
    · have := PhaseStep.failed (s := s) (sent := writeFrame (wireAddr s.cfg.aReset) s.cfg.vReset) (rx := rx) (by rw [hq]; decide) (by rw [hq]; rfl) hd
      rwa [hq] at this
    · exact .cutOff (by rw [hq]; decide) (by rw [hq]; rfl) hd
    · exact .hangs (by rw [hq]; decide) (by rw [hq]; rfl) hd
  | cfgHumWr =>
    rw [hq] at h
    rcases writes h with ⟨rx, hd, rfl⟩ | ⟨rx, hd, rfl⟩ | ⟨rx, stop, hd, rfl⟩ | ⟨rx, hd, rfl⟩
    · exact .cfgHumWr hq hd
    · have := PhaseStep.failed (s := s) (sent := writeFrame (wireAddr s.cfg.aCtrlHum) (humByte s.cfg)) (rx := rx) (by rw [hq]; decide) (by rw [hq]; rfl) hd
      rwa [hq] at this
    · exact .cutOff (by rw [hq]; decide) (by rw [hq]; rfl) hd
    · exact .hangs (by rw [hq]; decide) (by rw [hq]; rfl) hd
  | cfgMeasWr =>
    rw [hq] at h
    rcases writes h with ⟨rx, hd, rfl⟩ | ⟨rx, hd, rfl⟩ | ⟨rx, stop, hd, rfl⟩ | ⟨rx, hd, rfl⟩
    · exact .cfgMeasWr hq hd
    · have := PhaseStep.failed (s := s) (sent := writeFrame (wireAddr s.cfg.aCtrlMeas) (sleepByte s.cfg)) (rx := rx) (by rw [hq]; decide) (by rw [hq]; rfl) hd
      rwa [hq] at this
    · exact .cutOff (by rw [hq]; decide) (by rw [hq]; rfl) hd
    · exact .hangs (by rw [hq]; decide) (by rw [hq]; rfl) hd
  | forceWr =>
    rw [hq] at h
    rcases writes h with ⟨rx, hd, rfl⟩ | ⟨rx, hd, rfl⟩ | ⟨rx, stop, hd, rfl⟩ | ⟨rx, hd, rfl⟩
    · exact .forceWr hq hd
    · have := PhaseStep.failed (s := s) (sent := writeFrame (wireAddr s.cfg.aCtrlMeas) (forcedByte s.mreg)) (rx := rx) (by rw [hq]; decide) (by rw [hq]; rfl) hd
      rwa [hq] at this
    · exact .cutOff (by rw [hq]; decide) (by rw [hq]; rfl) hd
    · exact .hangs (by rw [hq]; decide) (by rw [hq]; rfl) hd
  | pollRd =>
    rw [hq] at h
    rcases reads h with ⟨x, b, hd, hl, rfl⟩ | ⟨rx, hd, rfl⟩ | ⟨rx, stop, hd, rfl⟩ | ⟨rx, hd, rfl⟩
    · obtain ⟨b, rfl⟩ := List.length_eq_one_iff.mp hl
      exact .pollRd hq hd
    · have := PhaseStep.failed (s := s) (sent := readFrame (wireAddr s.cfg.aStatus) 1) (rx := rx) (by rw [hq]; decide) (by rw [hq]; rfl) hd
      rwa [hq] at this
    · exact .cutOff (by rw [hq]; decide) (by rw [hq]; rfl) hd
    · exact .hangs (by rw [hq]; decide) (by rw [hq]; rfl) hd
  | forceRd =>
    rw [hq] at h
    rcases reads h with ⟨x, b, hd, hl, rfl⟩ | ⟨rx, hd, rfl⟩ | ⟨rx, stop, hd, rfl⟩ | ⟨rx, hd, rfl⟩
    · obtain ⟨b, rfl⟩ := List.length_eq_one_iff.mp hl
      exact .forceRd hq hd
    · have := PhaseStep.failed (s := s) (sent := readFrame (wireAddr s.cfg.aCtrlMeas) 1) (rx := rx) (by rw [hq]; decide) (by rw [hq]; rfl) hd
      rwa [hq] at this
    · exact .cutOff (by rw [hq]; decide) (by rw [hq]; rfl) hd
    · exact .hangs (by rw [hq]; decide) (by rw [hq]; rfl) hd
  | cal1Rd =>
    rw [hq] at h
    rcases reads h with ⟨x, b, hd, hl, rfl⟩ | ⟨rx, hd, rfl⟩ | ⟨rx, stop, hd, rfl⟩ | ⟨rx, hd, rfl⟩
    · obtain ⟨b, rfl⟩ := exists_buffer hl
      rw [toBuffer_toList_self]; exact .cal1Rd hq hd
    · have := PhaseStep.failed (s := s) (sent := readFrame (wireAddr s.cfg.aCal1) 26) (rx := rx) (by rw [hq]; decide) (by rw [hq]; rfl) hd
      rwa [hq] at this
    · exact .cutOff (by rw [hq]; decide) (by rw [hq]; rfl) hd
    · exact .hangs (by rw [hq]; decide) (by rw [hq]; rfl) hd
  | cal2Rd =>
    rw [hq] at h
    rcases reads h with ⟨x, b, hd, hl, rfl⟩ | ⟨rx, hd, rfl⟩ | ⟨rx, stop, hd, rfl⟩ | ⟨rx, hd, rfl⟩
    · obtain ⟨b, rfl⟩ := exists_buffer hl
      rw [toBuffer_toList_self]; exact .cal2Rd hq hd
    · have := PhaseStep.failed (s := s) (sent := readFrame (wireAddr s.cfg.aCal2) 8) (rx := rx) (by rw [hq]; decide) (by rw [hq]; rfl) hd
      rwa [hq] at this
    · exact .cutOff (by rw [hq]; decide) (by rw [hq]; rfl) hd
    · exact .hangs (by rw [hq]; decide) (by rw [hq]; rfl) hd
  | dataRd =>
    rw [hq] at h
    rcases reads h with ⟨x, b, hd, hl, rfl⟩ | ⟨rx, hd, rfl⟩ | ⟨rx, stop, hd, rfl⟩ | ⟨rx, hd, rfl⟩
    · obtain ⟨b, rfl⟩ := exists_buffer hl
      rw [toBuffer_toList_self]; exact .dataRd hq hd
    · have := PhaseStep.failed (s := s) (sent := readFrame (wireAddr s.cfg.aData) 8) (rx := rx) (by rw [hq]; decide) (by rw [hq]; rfl) hd
      rwa [hq] at this
    · exact .cutOff (by rw [hq]; decide) (by rw [hq]; rfl) hd
    · exact .hangs (by rw [hq]; decide) (by rw [hq]; rfl) hd

/-! ### A whole step -/

/-- What a transaction does on the bus: the read or the write it is. -/
def runTransaction (tr : Transaction) (s : State) : BusResult × State :=
  match tr with
  | .read a more => busRead a (more + 1) s
  | .write a v => busWrite a v s

/-- Whichever row of the opcode table a transaction is read as, its meaning is the transaction it is (log 8). -/
theorem exec_decodeTransaction (tr : Transaction) (s : State) :
    exec (decodeTransaction s.cfg tr) s = .next (deliver (runTransaction tr s)) := by
  cases tr with
  | read a more =>
    simp only [decodeTransaction, decodeRead]
    split
    · rename_i r hf
      have h1 := List.find?_some hf
      have h2 := List.mem_of_find?_eq_some hf
      simp only [Bool.and_eq_true, beq_iff_eq] at h1
      obtain ⟨rfl, h1⟩ := h1
      obtain ⟨x, k, j⟩ := r
      simp only at h1
      simp only [namedReads, List.mem_cons, Prod.mk.injEq, List.not_mem_nil, or_false] at h2
      simp only [runTransaction, ← h1]
      rcases h2 with ⟨rfl, rfl, rfl⟩ | ⟨rfl, rfl, rfl⟩ | ⟨rfl, rfl, rfl⟩ | ⟨rfl, rfl, rfl⟩ | ⟨rfl, rfl, rfl⟩ <;> rfl
    · rfl
  | write a v =>
    simp only [decodeTransaction, decodeWrite]
    split
    · rename_i e; rw [e]; rfl
    · split
      · rename_i e; rw [e]; rfl
      · split
        · rename_i e; rw [e]; rfl
        · rfl

/-- The four outcomes of a transaction run on its own. -/
theorem deliver_cases (tr : Transaction) (s : State) :
    (∃ rx out, Delivers s (sentBytes tr) rx ∧
      deliver (runTransaction tr s) = { afterDone s (sentBytes tr) rx with busOut := out }) ∨
    (∃ rx, FailsAfter s (sentBytes tr) rx ∧ deliver (runTransaction tr s) = { afterFailure s (sentBytes tr) rx with busOut := none }) ∨
    (∃ rx stop, ResetAfter s (sentBytes tr) rx stop ∧
      deliver (runTransaction tr s) = { afterReset s (sentBytes tr) rx stop with busOut := none }) ∨
    (∃ rx, HangsAfter s (sentBytes tr) rx ∧ deliver (runTransaction tr s) = { afterHang s (sentBytes tr) rx with busOut := none }) := by
  rcases bus_cases s (sentBytes tr) with ⟨rx, h, hl⟩ | ⟨rx, h⟩ | ⟨rx, stop, h⟩ | ⟨rx, h⟩
  · refine .inl ⟨rx, ?_⟩
    cases tr with
    | read a more =>
      cases rx with
      | nil => simp [sentBytes, readFrame] at hl
      | cons x bytes => exact ⟨some bytes, h, by rw [runTransaction, busRead_of_delivers h]; rfl⟩
    | write a v => exact ⟨some [], h, by rw [runTransaction, busWrite_of_delivers h]; rfl⟩
  · refine .inr (.inl ⟨rx, h, ?_⟩)
    cases tr with
    | read a more => rw [runTransaction, busRead_of_fails h]; rfl
    | write a v => rw [runTransaction, busWrite_of_fails h]; rfl
  · refine .inr (.inr (.inl ⟨rx, stop, h, ?_⟩))
    cases tr with
    | read a more => obtain ⟨t, h1, h2⟩ := busRead_of_resets h; rw [runTransaction, h1, sentBytes, ← h2]; rfl
    | write a v => obtain ⟨t, h1, h2⟩ := busWrite_of_resets h; rw [runTransaction, h1, sentBytes, ← h2]; rfl
  · refine .inr (.inr (.inr ⟨rx, h, ?_⟩))
    cases tr with
    | read a more => rw [runTransaction, busRead_of_hangs h]; rfl
    | write a v => rw [runTransaction, busWrite_of_hangs h]; rfl

/-- Everything a step can do: `rst`, no progress in a hung call, a transaction placed from outside with its four outcomes, or the phase in
`SEQ`. -/
inductive StepEffect (s : State) : State → Prop where
  | rst (h : s.rst = true) : StepEffect s (hardwareReset s)
  | stuck (h : s.hung = true) : StepEffect s s
  | placedDone {tr : Transaction} {rx : List Byte} {out : Option (List Byte)} (hh : s.hung = false) (hq : s.busReq = some tr)
      (hd : Delivers s (sentBytes tr) rx) :
      StepEffect s { afterDone s (sentBytes tr) rx with busReq := none, busOut := out }
  | placedFails {tr : Transaction} {rx : List Byte} (hh : s.hung = false) (hq : s.busReq = some tr) (hd : FailsAfter s (sentBytes tr) rx) :
      StepEffect s { afterFailure s (sentBytes tr) rx with busReq := none, busOut := none }
  | placedReset {tr : Transaction} {rx : List Byte} {stop : Answer} (hh : s.hung = false) (hq : s.busReq = some tr)
      (hd : ResetAfter s (sentBytes tr) rx stop) :
      StepEffect s { afterReset s (sentBytes tr) rx stop with busReq := none, busOut := none }
  | placedHangs {tr : Transaction} {rx : List Byte} (hh : s.hung = false) (hq : s.busReq = some tr) (hd : HangsAfter s (sentBytes tr) rx) :
      StepEffect s { afterHang s (sentBytes tr) rx with busReq := none, busOut := none }
  | phase {t : State} (hr : Runs s) (h : PhaseStep s t) : StepEffect s t

/-- The one inversion lemma of a step: a step that answers a next state did one of these. -/
theorem stepEffect_of_step {s t : State} (h : step s = .next t) : s.cfg.ok = true ∧ StepEffect s t := by
  obtain ⟨hok, hr⟩ := step_next_cases h
  refine ⟨hok, ?_⟩
  rcases hr with ⟨h1, rfl⟩ | ⟨-, hh, rfl⟩ | ⟨-, hh, tr, hb, he⟩ | ⟨hr, he⟩
  · exact .rst h1
  · exact .stuck hh
  · have e := exec_decodeTransaction tr { s with busReq := none }
    rw [show ({ s with busReq := none } : State).cfg = s.cfg from rfl, he] at e
    rw [Host.Outcome.next.inj e]
    rcases deliver_cases tr { s with busReq := none } with ⟨rx, out, hd, h2⟩ | ⟨rx, hd, h2⟩ | ⟨rx, stop, hd, h2⟩ | ⟨rx, hd, h2⟩ <;> rw [h2]
    · exact .placedDone hh hb hd
    · exact .placedFails hh hb hd
    · exact .placedReset hh hb hd
    · exact .placedHangs hh hb hd
  · exact .phase hr (phaseStep_of_exec he)

end Sys2Proof.Machine
end

