-- ==== Sys2Proof/Laws/Run.lean ====
section
/-! SUPPORT. Runs of several steps (`Host.Core.run`), one step at a time. -/

namespace Sys2Proof.Machine

/-- A run's first step, for any machine behind the host's interface. -/
theorem core_run_succ (M : Host.Core) (n : Nat) {s t : M.State} (h : M.step s = .next t) : M.run (n + 1) s = M.run n t := by
  rw [Host.Core.run, h]

/-- A run that ends in a next state: its first step, and the rest. -/
theorem core_run_succ_cases (M : Host.Core) {n : Nat} {s t : M.State} (h : M.run (n + 1) s = .next t) :
    ∃ u, M.step s = .next u ∧ M.run n u = .next t := by
  rw [Host.Core.run] at h
  cases hs : M.step s <;> rw [hs] at h
  · exact ⟨_, rfl, h⟩
  · cases h
  · cases h

/-- Runs compose. -/
theorem core_run_add (M : Host.Core) {m n : Nat} {s t u : M.State} (h1 : M.run m s = .next t) (h2 : M.run n t = .next u) :
    M.run (m + n) s = .next u := by
  induction m generalizing s with
  | zero => cases h1; simpa using h2
  | succ m ih =>
    obtain ⟨v, hv, h3⟩ := core_run_succ_cases M h1
    rw [show m + 1 + n = m + n + 1 by omega, core_run_succ M _ hv]
    exact ih h3

/-- A run of this machine that starts with the phase in `SEQ`. -/
theorem run_phase {n : Nat} {s u : State} {r : Host.Outcome State Fault Refusal} (hr : Safety.Runs s)
    (h : exec (decodePhase s.seq.code) s = .next u) (h2 : Host.Core.run core n u = r) : Host.Core.run core (n + 1) s = r :=
  (core_run_succ core n ((step_of_runs hr).trans h)).trans h2

end Sys2Proof.Machine
end

