-- ==== Sys2Proof/Tests/Slice0.lean ====
section
/-! SUPPORT. Small tests with their expected results taken from the spec (each names where), the smoke test of the checks, a word for every
constructor's decoding, and for every obligation with hypotheses a concrete state and operands that meet them. -/

namespace Sys2Proof.Tests

open Sys2Proof.Machine Sys2Proof.Safety

/-! ### Helpers -/

/-- A machine in phase `p` and controller state `x`, with these exchange answers to come. -/
def at_ (p : Phase) (x : SState) (answers : List Answer) : State := { State.reset with seq := p, sstate := x, answers := answers }

/-- An idle machine in controller state `x` with these commands presented. -/
def idle_ (x : SState) (cmds : List (BitVec 3)) : State := { State.reset with sstate := x, cmds := cmds }

/-- What can be seen of the next state, if there is one. -/
def see {α : Type} (o : Host.Outcome State Fault Refusal) (f : State → α) : Option α :=
  match o with
  | .next t => some (f t)
  | .fault _ => none
  | .refused _ => none

/-- A controller in the middle of an `INIT`, with a poll bound and a poll count. -/
def polling (limit : Option Nat) (count : Nat) (answers : List Answer) : State :=
  { State.reset with
    cfg := { Config.default with pollLimit := limit }
    seq := .pollRd
    cmdreg := 1
    pollcnt := count
    answers := answers }

/-- Vector set V-CAL-A, block 1 (spec/95_test_vectors.md 2.1). -/
def blockA1 : Vector Byte 26 := #v[0x70, 0x6B, 0x43, 0x67, 0x18, 0xFC, 0x7D, 0x8E, 0x43, 0xD6, 0xD0, 0x0B, 0x27, 0x0B, 0x8C, 0x00, 0xF9, 0xFF,
  0x8C, 0x3C, 0xF8, 0xC6, 0x70, 0x17, 0x00, 0x4B]

/-- Vector set V-CAL-A, block 2. -/
def blockA2 : Vector Byte 8 := #v[0x6F, 0x01, 0x00, 0x12, 0x2D, 0x03, 0x1E, 0x00]

/-- The coefficients of V-CAL-A (spec/95_test_vectors.md 2.1). -/
def calA : Cal where
  t1 := 27504
  t2 := 26435
  t3 := -1000
  p1 := 36477
  p2 := -10685
  p3 := 3024
  p4 := 2855
  p5 := 140
  p6 := -7
  p7 := 15500
  p8 := -14600
  p9 := 6000
  h1 := 75
  h2 := 367
  h3 := 0
  h4 := 301
  h5 := 50
  h6 := 30

/-- A fetch about to compute, with the coefficients of V-CAL-A. -/
def computing (p : Phase) (rawP rawT : BitVec 20) (rawH : BitVec 16) (tfine : Word) : State :=
  { State.reset with seq := p, sstate := .measuring, cmdreg := 4, cal := calA, rawP := rawP, rawT := rawT, rawH := rawH, tfine := tfine }

/-! ### The checks refuse ill-formed terms -/

/-- spec/20_memory.md R49: "for `1 <= n`". -/
theorem smoke_read_of_nothing : wellFormed Config.default (.busRead 0x50#7 0) = false := by decide
/-- `0xF3` is the address of the status read, which has its own row (R75). -/
theorem smoke_read_at_named_address : wellFormed Config.default (.busRead 0x73#7 1) = false := by decide
theorem smoke_write_at_named_address : wellFormed Config.default (.busWrite 0x60#7 0xB6#8) = false := by decide
/-- R76: the payload is `V_RESET`. -/
theorem smoke_reset_payload : wellFormed Config.default (.busWrReset 0x00#8) = false := by decide
/-- R78: the upper five bits are 0. -/
theorem smoke_humidity_payload : wellFormed Config.default (.busWrCtrlHum 0x09#8) = false := by decide
/-- R79, R80: "The engine only ever writes 0b00 and 0b01" into the mode bits; with 0b00 only the payload of `INIT`. -/
theorem smoke_mode_payload : wellFormed Config.default (.busWrCtrlMeas 0x27#8) = false := by decide
theorem smoke_sleep_payload : wellFormed Config.default (.busWrCtrlMeas 0x28#8) = false := by decide
/-- spec/20_memory.md R41, each burst one past the end; spec/00_scope.md R6, `POLL_LIMIT`. -/
theorem smoke_configurations :
    ({ Config.default with aCal1 := 0xE7#8 }.ok = false) ∧ ({ Config.default with aCal2 := 0xF9#8 }.ok = false) ∧
      ({ Config.default with aData := 0xF9#8 }.ok = false) ∧ ({ Config.default with pollLimit := some 0 }.ok = false) := by decide
theorem smoke_equal_addresses : { Config.default with aStatus := Config.default.aCtrlMeas }.addrsDistinct = false := by decide
/-- The last addresses each burst may have, and the default column. -/
theorem test_good_configurations :
    Config.default.ok = true ∧ Config.default.addrsDistinct = true ∧
      ({ Config.default with aCal1 := 0xE6#8, aCal2 := 0xF8#8, aData := 0xF8#8, pollLimit := some 1 }.ok = true) := by decide

/-! ### Decoding, by words written out from spec/30_encoding.md -/

/-- R72, R73. -/
theorem test_decode_commands :
    decodeTableWord 3 0b000 = some .reserved000 ∧ decodeTableWord 3 0b001 = some .init ∧ decodeTableWord 3 0b010 = some .force ∧
      decodeTableWord 3 0b011 = some .reserved011 ∧ decodeTableWord 3 0b100 = some .getT ∧ decodeTableWord 3 0b101 = some .getP ∧
      decodeTableWord 3 0b110 = some .getH ∧ decodeTableWord 3 0b111 = some .reserved111 := by decide

/-- R88. -/
theorem test_decode_phases :
    decodeTableWord 4 0b0000 = some .seqIdle ∧ decodeTableWord 4 0b0001 = some .seqResetWr ∧ decodeTableWord 4 0b0010 = some .seqPollRd ∧
      decodeTableWord 4 0b0011 = some .seqPollWait ∧ decodeTableWord 4 0b0100 = some .seqCal1Rd ∧
      decodeTableWord 4 0b0101 = some .seqCal2Rd ∧ decodeTableWord 4 0b0110 = some .seqCalDecode ∧
      decodeTableWord 4 0b0111 = some .seqCfgHumWr := by decide
theorem test_decode_phases_2 :
    decodeTableWord 4 0b1000 = some .seqCfgMeasWr ∧ decodeTableWord 4 0b1001 = some .seqForceRd ∧
      decodeTableWord 4 0b1010 = some .seqForceWr ∧ decodeTableWord 4 0b1011 = some .seqDataRd ∧
      decodeTableWord 4 0b1100 = some .seqRawDecode ∧ decodeTableWord 4 0b1101 = some .seqCompT ∧
      decodeTableWord 4 0b1110 = some .seqCompP ∧ decodeTableWord 4 0b1111 = some .seqCompH := by decide

/-- R75, R79, R80, the bytes of spec/95_test_vectors.md 2.2. -/
theorem test_decode_transactions :
    decode Config.default (.frame [0x60#8, 0xB6#8]) = .ok (.busWrReset 0xB6#8) ∧
      decode Config.default (.frame [0xF3#8, 0x00#8]) = .ok .busRdStatus ∧
      decode Config.default (.frame (0x88#8 :: List.replicate 26 0x00#8)) = .ok .busRdCal1 ∧
      decode Config.default (.frame (0xE1#8 :: List.replicate 8 0x00#8)) = .ok .busRdCal2 ∧
      decode Config.default (.frame [0x72#8, 0x01#8]) = .ok (.busWrCtrlHum 0x01#8) ∧
      decode Config.default (.frame [0x74#8, 0x25#8]) = .ok (.busWrCtrlMeas 0x25#8) ∧
      decode Config.default (.frame [0xF4#8, 0x00#8]) = .ok .busRdCtrlMeas ∧
      decode Config.default (.frame (0xF7#8 :: List.replicate 8 0x00#8)) = .ok .busRdData := by decide

/-- R74: bit 7 is the direction, bits 6 to 0 the address. -/
theorem test_decode_generic_transactions :
    decode Config.default (.frame [0b11010000#8, 0x00#8, 0x00#8]) = .ok (.busRead 0b1010000#7 2) ∧
      decode Config.default (.frame [0b01010000#8, 0xA5#8]) = .ok (.busWrite 0b1010000#7 0xA5#8) := by decide

/-- R94: a read at a named address with another length is a read like any other (spec/20_memory.md R49), and where two bursts start at one wire
address the length tells them apart. -/
theorem test_decode_other_lengths :
    decode Config.default (.frame [0xF3#8, 0x00#8, 0x00#8]) = .ok (.busRead 0x73#7 2) ∧
      decode { Config.default with aCal1 := 0x61#8 } (.frame (0xE1#8 :: List.replicate 8 0x00#8)) = .ok .busRdCal2 ∧
      decode { Config.default with aCal1 := 0x61#8 } (.frame (0xE1#8 :: List.replicate 26 0x00#8)) = .ok .busRdCal1 := by decide

/-- Each reason the decoder has to refuse bytes that are no transaction. -/
theorem test_decode_refusals :
    decode Config.default (.frame []) = .error .emptyFrame ∧ decode Config.default (.frame [0x60#8]) = .error .noDataByte ∧
      decode Config.default (.frame [0xF3#8, 0x01#8]) = .error .readSendsData ∧
      decode Config.default (.frame [0x60#8, 0xB6#8, 0x00#8]) = .error .writeLength := by decide

/-! ### Steps from a table word -/

/-- A command, a phase and a transaction placed in the machine after reset are what the next step runs. -/
theorem test_withFetchWord :
    see (step (State.reset.withFetchWord 3 0b001)) (·.seq) = some .resetWr ∧
      see (step (State.reset.withFetchWord 4 0b0011)) (·.hist) = some [.delay 2] ∧
      see (step ({ State.reset with answers := [.ok 0x55, .ok 0x24] }.withFetchWord 8 0xF4)) (·.busOut) = some (some [0x24]) := by
  decide

/-! ### Commands (spec/95_test_vectors.md, the dispatch table) -/

theorem test_init : see (step (idle_ .reset [1])) (fun t => (t.seq, t.cmdreg, t.cmds)) = some (.resetWr, 1, []) := by decide
theorem test_init_again :
    see (step (idle_ .failed [1])) (fun t => (t.sstate, t.errlog, t.responses)) =
      some (.failed, 0b1000, [{ status := .error .refused, data := 0 }]) := by decide
theorem test_force : see (step (idle_ .dataReady [2])) (fun t => (t.seq, t.sstate)) = some (.forceRd, .idle) := by decide
theorem test_force_uncalibrated :
    see (step (idle_ .failed [2])) (fun t => (t.errlog, t.responses)) =
      some (0b0100, [{ status := .error .notCalibrated, data := 0 }]) := by decide
theorem test_getT_cached :
    see (step { idle_ .dataReady [4] with outT := 2508, outP := 1, outH := 2 }) (·.responses) =
      some [{ status := .ok, data := 0x000009CC }] := by decide
theorem test_getT_fetches : see (step (idle_ .measuring [4])) (·.seq) = some .dataRd := by decide
theorem test_getP_cached :
    see (step { idle_ .dataReady [5] with outT := 1, outP := 25767233, outH := 2 }) (·.responses) =
      some [{ status := .ok, data := 0x01892D41 }] := by decide
theorem test_getP_uncalibrated :
    see (step (idle_ .reset [5])) (·.responses) = some [{ status := .error .notCalibrated, data := 0 }] := by decide
theorem test_getH_cached :
    see (step { idle_ .dataReady [6] with outT := 1, outP := 2, outH := 61519 }) (fun t => (t.responses, t.hist)) =
      some ([{ status := .ok, data := 0x0000F04F }], []) := by decide
theorem test_getH_fetches : see (step (idle_ .idle [6])) (fun t => (t.seq, t.cmdreg)) = some (.dataRd, 6) := by decide
theorem test_reserved000 : see (step (idle_ .idle [0])) (fun t => (t.errlog, t.sstate)) = some (0b1000, .idle) := by decide
theorem test_reserved011 :
    see (step (idle_ .reset [3])) (·.responses) = some [{ status := .error .refused, data := 0 }] := by decide
theorem test_reserved111 : see (step (idle_ .dataReady [7])) (fun t => (t.errlog, t.sstate)) = some (0b1000, .dataReady) := by decide

/-! ### Bus transactions (the traces of spec/95_test_vectors.md, PRG-1 and PRG-6) -/

theorem test_busRead :
    see (exec (.busRead 0x50#7 2) (at_ .idle .reset [.ok 9, .ok 1, .ok 2])) (fun t => (t.busOut, t.hist)) =
      some (some [1, 2], [.sel false, .xfer 0xD0 9, .xfer 0 1, .xfer 0 2, .sel true]) := by decide
theorem test_busRead_of_nothing : exec (.busRead 0x50#7 0) State.reset = .refused .emptyRead := rfl
theorem test_busWrite :
    see (exec (.busWrite 0x50#7 7) (at_ .idle .reset [.ok 9, .fail])) (fun t => (t.busOut, t.hist, t.csn)) =
      some (none, [.sel false, .xfer 0x50 9, .xferFail 7, .sel true], true) := by decide
theorem test_busWrReset :
    see (exec (.busWrReset 0xB6) (at_ .idle .reset [.ok 0, .ok 0])) (·.hist) =
      some [.sel false, .xfer 0x60 0, .xfer 0xB6 0, .sel true] := by decide
theorem test_busRdStatus : see (exec .busRdStatus (at_ .idle .reset [.ok 9, .ok 1])) (·.busOut) = some (some [1]) := by decide
theorem test_busRdCal1 :
    see (exec .busRdCal1 (at_ .idle .reset (.ok 9 :: blockA1.toList.map .ok))) (·.busOut) = some (some blockA1.toList) := by decide
theorem test_busRdCal2 :
    see (exec .busRdCal2 (at_ .idle .reset (.ok 9 :: blockA2.toList.map .ok))) (·.busOut) = some (some blockA2.toList) := by decide
theorem test_busWrCtrlHum :
    see (exec (.busWrCtrlHum 1) (at_ .idle .reset [.ok 0, .ok 0])) (·.hist) =
      some [.sel false, .xfer 0x72 0, .xfer 0x01 0, .sel true] := by decide
theorem test_busWrCtrlMeas :
    see (exec (.busWrCtrlMeas 0x24) (at_ .idle .reset [.ok 0, .ok 0])) (·.hist) =
      some [.sel false, .xfer 0x74 0, .xfer 0x24 0, .sel true] := by decide
theorem test_busRdCtrlMeas :
    see (exec .busRdCtrlMeas (at_ .idle .reset [.ok 0xAA, .ok 0x24])) (·.hist) =
      some [.sel false, .xfer 0xF4 0xAA, .xfer 0x00 0x24, .sel true] := by decide
theorem test_busRdData_fails :
    see (exec .busRdData (at_ .idle .reset [.ok 0x77, .ok 0x65, .ok 0x5A, .fail])) (fun t => (t.busOut, t.hist.length, t.csn)) =
      some (none, 6, true) := by decide

/-! ### Phases (the traces and tables of spec/95_test_vectors.md) -/

theorem test_seqIdle_waits : step (idle_ .measuring []) = .next (idle_ .measuring []) := rfl
theorem test_seqIdle_takes_one : see (step (idle_ .reset [3, 1, 2])) (·.cmds) = some [1, 2] := by decide
theorem test_seqResetWr :
    see (step { at_ .resetWr .reset [.ok 0, .ok 0] with pollcnt := 9 }) (fun t => (t.hist, t.seq, t.pollcnt)) =
      some ([.sel false, .xfer 0x60 0, .xfer 0xB6 0, .sel true], .pollRd, 0) := by decide
theorem test_seqResetWr_fails :
    see (step (at_ .resetWr .reset [.fail])) (fun t => (t.hist, t.sstate, t.errlog)) =
      some ([.sel false, .xferFail 0x60, .sel true], .failed, 0b0001) := by decide
/-- Only bit 0 counts (spec/30_encoding.md R77): 0xFE is ready. -/
theorem test_seqPollRd_ready :
    see (step (polling (some 1) 0 [.ok 0, .ok 0xFE])) (fun t => (t.seq, t.pollcnt)) = some (.cal1Rd, 1) := by decide
theorem test_seqPollRd_timeout :
    see (step (polling (some 3) 2 [.ok 0, .ok 0x01])) (fun t => (t.seq, t.sstate, t.errlog)) = some (.idle, .failed, 0b0010) := by
  decide
/-- spec/41_measurement_controller.md R162: a `Delay` that never returns hangs the engine in `POLL_WAIT`. -/
theorem test_seqPollWait_hangs :
    see (step { polling none 1 [] with seq := .pollWait, delays := [false] }) (fun t => (t.hist, t.seq, t.hung)) =
      some ([.delay 2], .pollWait, true) := by decide
theorem test_seqPollWait :
    see (step { polling none 1 [] with seq := .pollWait }) (fun t => (t.hist, t.seq)) = some ([.delay 2], .pollRd) := by decide
theorem test_seqCal1Rd :
    see (step (at_ .cal1Rd .reset (.ok 9 :: blockA1.toList.map .ok))) (fun t => (t.calbuf1, t.seq)) = some (blockA1, .cal2Rd) := by
  decide
theorem test_seqCal2Rd :
    see (step (at_ .cal2Rd .reset (.ok 9 :: blockA2.toList.map .ok))) (fun t => (t.calbuf2, t.seq)) = some (blockA2, .calDecode) := by
  decide
/-- V-CAL-A. -/
theorem test_seqCalDecode_A :
    see (step { at_ .calDecode .reset [] with calbuf1 := blockA1, calbuf2 := blockA2 }) (fun t => (t.cal, t.seq)) = some (calA, .cfgHumWr) := by
  decide
/-- V-CAL-D: the sign corners of block 2. -/
theorem test_seqCalDecode_D :
    see (step { at_ .calDecode .reset [] with calbuf2 := #v[0x00, 0x80, 0xFF, 0x80, 0x0F, 0x7F, 0x80, 0xAA] })
      (fun t => (t.cal.h2.toInt, t.cal.h3.toNat, t.cal.h4.toInt, t.cal.h5.toInt, t.cal.h6.toInt)) =
      some (-32768, 255, -2033, 2032, -128) := by decide
theorem test_seqCfgHumWr :
    see (step (at_ .cfgHumWr .reset [.ok 0, .ok 0])) (fun t => (t.hist, t.seq)) =
      some ([.sel false, .xfer 0x72 0, .xfer 0x01 0, .sel true], .cfgMeasWr) := by decide
theorem test_seqCfgMeasWr :
    see (step (at_ .cfgMeasWr .reset [.ok 0, .ok 0])) (fun t => (t.hist, t.sstate, t.responses)) =
      some ([.sel false, .xfer 0x74 0, .xfer 0x24 0, .sel true], .idle, [{ status := .ok, data := 0 }]) := by decide
theorem test_seqForceRd :
    see (step (at_ .forceRd .idle [.ok 0xAA, .ok 0x24])) (fun t => (t.mreg, t.seq)) = some (0x24, .forceWr) := by decide
/-- spec/95_test_vectors.md 2.2: 0x24 is written back as 0x25. -/
theorem test_seqForceWr :
    see (step { at_ .forceWr .idle [.ok 0, .ok 0] with mreg := 0x24 }) (fun t => (t.hist, t.sstate)) =
      some ([.sel false, .xfer 0x74 0, .xfer 0x25 0, .sel true], .measuring) := by decide
/-- PRG-6: the failed write of `FORCE` leaves `Idle`. -/
theorem test_seqForceWr_fails :
    see (step { at_ .forceWr .idle [.ok 0xAA, .fail] with mreg := 0x24 }) (fun t => (t.sstate, t.errlog, t.hist)) =
      some (.idle, 0b0001, [.sel false, .xfer 0x74 0xAA, .xferFail 0x25, .sel true]) := by decide
theorem test_seqDataRd :
    see (step (at_ .dataRd .measuring ([0x77, 0x65, 0x5A, 0xC0, 0x7E, 0xED, 0x00, 0x75, 0x30].map .ok))) (fun t => (t.databuf, t.seq)) =
      some (#v[0x65, 0x5A, 0xC0, 0x7E, 0xED, 0x00, 0x75, 0x30], .rawDecode) := by decide
/-- PRG-6: a burst that fails after three data bytes. -/
theorem test_seqDataRd_fails :
    see (step (at_ .dataRd .measuring [.ok 0x77, .ok 0x65, .ok 0x5A, .ok 0xC0, .fail])) (fun t => (t.databuf, t.sstate, t.seq)) =
      some (Vector.replicate 8 0, .measuring, .idle) := by decide
/-- The raw-count table of spec/95_test_vectors.md. -/
theorem test_seqRawDecode :
    see (step { at_ .rawDecode .measuring [] with databuf := #v[0x65, 0x5A, 0xC0, 0x7E, 0xED, 0x00, 0x75, 0x30] })
      (fun t => (t.rawP, t.rawT, t.rawH)) = some (415148, 519888, 30000) := by decide
theorem test_seqRawDecode_low_nibbles :
    see (step { at_ .rawDecode .measuring [] with databuf := #v[0x12, 0x34, 0x56, 0x78, 0x9A, 0xBC, 0xDE, 0xF0] })
      (fun t => (t.rawP, t.rawT, t.rawH)) = some (74565, 493995, 57072) := by decide
/-- The temperature vectors of spec/95_test_vectors.md: 25.08 degrees, and a count below the reference (a negative result). -/
theorem test_seqCompT :
    see (step (computing .compT 0 519888 0 0)) (fun t => (t.tfine.toInt, t.outT.toInt)) = some (128422, 2508) := by decide
theorem test_seqCompT_negative :
    see (step (computing .compT 0 400000 0 0)) (fun t => (t.tfine.toInt, t.outT.toInt)) = some (-64736, -1264) := by decide
/-- The pressure vectors: the reference, and a quotient that is negative (truncation toward zero, the low 32 bits). -/
theorem test_seqCompP : see (step (computing .compP 415148 0 0 128422)) (·.outP.toNat) = some 25767233 := by decide
theorem test_seqCompP_negative : see (step (computing .compP 1048575 0 0 128422)) (·.outP.toNat) = some 4293269792 := by decide
/-- The humidity vectors: the reference, and the upper clamp. -/
theorem test_seqCompH :
    see (step (computing .compH 0 0 30000 128422)) (fun t => (t.outH.toNat, t.sstate, t.seq)) = some (61519, .dataReady, .idle) := by decide
theorem test_seqCompH_clamped : see (step (computing .compH 0 0 65535 128422)) (·.outH.toNat) = some 102400 := by decide

/-! ### Witnesses: what meets the hypotheses of the obligations -/

theorem witness_DecodeOfEncode :
    Config.default.addrsDistinct = true ∧ wellFormed Config.default (.busRead 0x50#7 2) = true ∧
      wellFormed Config.default (.busWrCtrlMeas 0x25#8) = true := by decide
theorem witness_EncodeOfDecode : decode Config.default (.frame [0xF3#8, 0x00#8]) = .ok .busRdStatus := by decide
/-- The shortest byte list of each kind, and one of each that is a transaction. -/
theorem witness_DecodeRefusesExactlyMalformedFrames :
    decode Config.default (.frame [0xF3#8, 0x01#8]) = .error .readSendsData ∧
      decode Config.default (.frame [0x73#8, 0x00#8, 0x00#8]) = .error .writeLength ∧
      decode Config.default (.frame [0xFF#8, 0x00#8]) = .ok (.busRead 0x7F#7 1) ∧
      decode Config.default (.frame [0x00#8, 0x00#8]) = .ok (.busWrite 0x00#7 0x00#8) := by decide
/-- The parameters, and a `RESET_WR` that is complete and one that fails. -/
theorem witness_DefaultTransactionTable :
    (at_ .resetWr .reset [.ok 1, .ok 2]).cfg = Config.default ∧ Delivers (at_ .resetWr .reset [.ok 1, .ok 2]) [0x60#8, 0xB6#8] [1#8, 2#8] ∧
      FailsAfter (at_ .resetWr .reset [.ok 1, .fail]) [0x60#8, 0xB6#8] [1#8] := by decide
/-- Both the phase clause and the waiting clause. -/
theorem witness_StepRuns_phase :
    Runs State.reset ∧ State.reset.seq = .idle ∧ State.reset.cmds = [] ∧
      decode State.reset.cfg (.phase State.reset.seq.code) = .ok .seqIdle := by decide
theorem witness_StepRuns_command :
    Runs (idle_ .reset [1]) ∧ (idle_ .reset [1]).seq = .idle ∧ (idle_ .reset [1]).cmds = 1 :: [] ∧
      decode (idle_ .reset [1]).cfg (.command 1) = .ok .init := by decide
theorem witness_StepRuns_frame :
    let s := { State.reset with busReq := some (.write 0x60#7 0xB6#8) }
    s.cfg.ok = true ∧ s.rst = false ∧ s.hung = false ∧ s.busReq = some (.write 0x60#7 0xB6#8) ∧
      sentBytes (.write 0x60#7 0xB6#8) = [0x60#8, 0xB6#8] ∧ decode s.cfg (.frame [0x60#8, 0xB6#8]) = .ok (.busWrReset 0xB6#8) := by decide
/-- Each way to break the configuration, one past the last good value. -/
theorem witness_StepStops_configuration :
    (0xFF : Nat) < (0xE7#8).toNat + 25 ∧ (0xFF : Nat) < (0xF9#8).toNat + 7 ∧
      step (State.resetWith { Config.default with pollLimit := some 0 }) = .refused .configuration := ⟨by decide, by decide, by rfl⟩
/-- An engine that hangs inside its reset write: that a step took it there, and what the clause asks of it. -/
theorem witness_StepStops_hung :
    let s := at_ .resetWr .reset [.ok 1, .hang]
    see (step s) (fun t => (t.cfg.ok, t.rst, t.hung, t.csn)) = some (true, false, true, false) ∧
      see (step s) (fun t => (t.seq, t.hist, t.responses)) = some (.resetWr, [.sel false, .xfer 0x60 1], []) := by decide
theorem witness_EveryStepIsSafe : State.reset.cfg.ok = true := by decide
/-- `rst` between transactions and, the engine hanging and the line low, inside one. -/
theorem witness_HardwareResetByPin :
    ({ State.reset with rst := true }.cfg.ok = true ∧ { State.reset with rst := true }.rst = true) ∧
      ({ State.reset with rst := true, csn := false, hung := true }.rst = true) := by decide
/-- `rst` before the first exchange, right after the last one, and right after a failed one; and a hang in the last exchange. -/
theorem witness_ResetOrHangInsideTransaction :
    let s := fun answers => { at_ .forceWr .idle answers with mreg := 0x24 }
    phaseFrame (s []) .seqForceWr = some [0x74#8, 0x25#8] ∧ ResetAfter (s [.rst]) [0x74#8, 0x25#8] [] .rst ∧
      ResetAfter (s [.ok 1, .okRst 2]) [0x74#8, 0x25#8] [1#8] (.okRst 2) ∧ ResetAfter (s [.failRst]) [0x74#8, 0x25#8] [] .failRst ∧
      HangsAfter (s [.ok 1, .hang]) [0x74#8, 0x25#8] [1#8] := by decide
/-- spec/70_reset_and_hazards.md R250 "abandoned without a response": `rst` after the last exchange of `CFG_MEAS_WR`, before its `Sel(1)`. -/
theorem test_rst_before_the_closing_select :
    see (step (at_ .cfgMeasWr .reset [.ok 1, .okRst 2])) (fun t => (t.responses, t.sstate, t.hist)) =
      some ([], .reset, [.sel false, .xfer 0x74 1, .xfer 0x24 2, .sel true]) := by decide
/-- The same after a failed exchange: no `TransportFailure` is answered. -/
theorem test_rst_after_a_failed_exchange :
    see (step (at_ .forceRd .idle [.failRst])) (fun t => (t.responses, t.sstate, t.errlog, t.hist)) =
      some ([], .reset, 0, [.sel false, .xferFail 0xF4, .sel true]) := by decide
/-- Each outcome of a transaction has its case. -/
theorem witness_TransactionOutcomes :
    (transact [0x60#8, 0xB6#8] (at_ .idle .reset [.ok 1, .ok 2])).1 = .done [1, 2] ∧
      (transact [0x60#8, 0xB6#8] (at_ .idle .reset [.fail])).1 = .failed ∧
      (transact [0x60#8, 0xB6#8] (at_ .idle .reset [.ok 1, .rst])).1 = .reset ∧
      (transact [0x60#8, 0xB6#8] (at_ .idle .reset [.ok 1, .hang])).1 = .hung := by decide
theorem witness_TransactionEvents :
    Delivers (at_ .idle .reset [.ok 1, .ok 2]) [0x60#8, 0xB6#8] [1#8, 2#8] ∧
      FailsAfter (at_ .idle .reset [.ok 1, .fail]) [0x60#8, 0xB6#8] [1#8] ∧
      FailsAfter (at_ .idle .reset [.fail]) [0x60#8, 0xB6#8] [] := by decide
/-- The shortest read, and a transaction of it delivered, failed, cut off. -/
theorem witness_ReadTransactions :
    1 ≤ 1 ∧ Delivers (at_ .idle .reset [.ok 1, .ok 2]) (readFrame 0x50#7 1) [1#8, 2#8] ∧
      FailsAfter (at_ .idle .reset [.ok 1, .fail]) (readFrame 0x50#7 1) [1#8] ∧
      ResetAfter (at_ .idle .reset [.ok 1, .rst]) (readFrame 0x50#7 1) [1#8] .rst ∧
      HangsAfter (at_ .idle .reset [.hang]) (readFrame 0x50#7 1) [] := by decide
theorem witness_WriteTransactions :
    Delivers (at_ .idle .reset [.ok 1, .ok 2]) (writeFrame 0x60#7 0xB6#8) [1#8, 2#8] ∧
      FailsAfter (at_ .idle .reset [.fail]) (writeFrame 0x60#7 0xB6#8) [] ∧
      ResetAfter (at_ .idle .reset [.ok 1, .okRst 2]) (writeFrame 0x60#7 0xB6#8) [1#8] (.okRst 2) ∧
      HangsAfter (at_ .idle .reset [.ok 1, .hang]) (writeFrame 0x60#7 0xB6#8) [1#8] := by decide
theorem witness_IdleTakesCommand : State.reset.cmds = [] ∧ (idle_ .reset [1, 2]).cmds = 1 :: [2] := by decide
theorem witness_InitDispatch : State.reset.sstate = .reset ∧ (idle_ .failed []).sstate ≠ .reset := by decide
/-- The three states with `CALVALID`, and the two without; also for the accessors. -/
theorem witness_ForceDispatch_AccessorDispatch :
    (idle_ .idle []).sstate = .idle ∧ (idle_ .measuring []).sstate = .measuring ∧ (idle_ .dataReady []).sstate = .dataReady ∧
      (idle_ .reset []).sstate = .reset ∧ (idle_ .failed []).sstate = .failed := by decide
theorem witness_DispatchErrors :
    (idle_ .reset [0]).cmds = 0 :: [] ∧
      exec .seqIdle (idle_ .reset [0]) = .next { idle_ .reset [] with
        errlog := 0b1000, responses := [{ status := .error .refused, data := 0 }] } := ⟨rfl, rfl⟩
theorem witness_ResetWrPhase :
    Delivers (at_ .resetWr .reset [.ok 1, .ok 2]) [0x60#8, 0xB6#8] [1#8, 2#8] ∧
      FailsAfter (at_ .resetWr .reset [.fail]) [0x60#8, 0xB6#8] [] := by decide
/-- Ready; busy one before the bound; busy at the bound; and a failed exchange. -/
theorem witness_PollRdPhase :
    Delivers (polling none 0 [.ok 1, .ok 0xFE]) (readFrame 0x73#7 1) [1#8, 0xFE#8] ∧ (0xFE#8).getLsbD 0 = false ∧
      Delivers (polling (some 3) 1 [.ok 1, .ok 1]) (readFrame 0x73#7 1) [1#8, 1#8] ∧ (1#8).getLsbD 0 = true ∧
      (polling (some 3) 1 []).cfg.pollLimit = some 3 ∧ (polling (some 3) 1 []).pollcnt + 1 < 3 ∧
      3 ≤ (polling (some 3) 2 []).pollcnt + 1 ∧ FailsAfter (polling (some 3) 2 [.ok 1, .fail]) (readFrame 0x73#7 1) [1#8] := by
  decide
/-- A `Delay` that returns, past the script's end and in it, and one that does not. -/
theorem witness_PollWaitPhase :
    ([] : List Bool).headD true = true ∧ [true, false].headD true = true ∧ [false].headD true = false := by decide
theorem witness_CalibrationBurstPhases :
    Delivers (at_ .cal1Rd .reset (.ok 9 :: blockA1.toList.map .ok)) (readFrame 0x08#7 26) (9#8 :: blockA1.toList) ∧
      FailsAfter (at_ .cal1Rd .reset [.ok 9, .fail]) (readFrame 0x08#7 26) [9#8] ∧
      Delivers (at_ .cal2Rd .reset (.ok 9 :: blockA2.toList.map .ok)) (readFrame 0x61#7 8) (9#8 :: blockA2.toList) ∧
      FailsAfter (at_ .cal2Rd .reset [.fail]) (readFrame 0x61#7 8) [] := by decide
theorem witness_ConfigurationPhases :
    Delivers (at_ .cfgHumWr .reset [.ok 1, .ok 2]) [0x72#8, 0x01#8] [1#8, 2#8] ∧
      FailsAfter (at_ .cfgHumWr .reset [.ok 1, .fail]) [0x72#8, 0x01#8] [1#8] ∧
      Delivers (at_ .cfgMeasWr .reset [.ok 1, .ok 2]) [0x74#8, 0x24#8] [1#8, 2#8] ∧
      FailsAfter (at_ .cfgMeasWr .reset [.fail]) [0x74#8, 0x24#8] [] := by decide
theorem witness_ForcePhases :
    Delivers (at_ .forceRd .idle [.ok 1, .ok 0x24]) [0xF4#8, 0#8] [1#8, 0x24#8] ∧
      FailsAfter (at_ .forceRd .idle [.fail]) [0xF4#8, 0#8] [] ∧
      Delivers { at_ .forceWr .idle [.ok 1, .ok 2] with mreg := 0x24 } [0x74#8, 0x25#8] [1#8, 2#8] ∧
      FailsAfter { at_ .forceWr .idle [.ok 1, .fail] with mreg := 0x24 } [0x74#8, 0x25#8] [1#8] := by decide
theorem witness_DataRdPhase :
    Delivers (at_ .dataRd .idle (.ok 9 :: blockA2.toList.map .ok)) (readFrame 0x77#7 8) (9#8 :: blockA2.toList) ∧
      FailsAfter (at_ .dataRd .idle [.ok 9, .ok 1, .fail]) (readFrame 0x77#7 8) [9#8, 1#8] := by decide
/-- Both clauses: a `COMP_H` for each accessor, and the step that makes `SSTATE` `DataReady`. -/
theorem witness_FetchEndsInCompHAlone :
    let s := computing .compH 0 0 30000 128422
    s.cmdreg = 4 ∧ { s with cmdreg := 5 }.cmdreg = 5 ∧ { s with cmdreg := 6 }.cmdreg = 6 ∧ s.sstate ≠ .dataReady ∧
      see (step s) (·.sstate) = some .dataReady := by decide
/-- The corner of the box: `|T2| = 16383`, `|lsr(RAW_T, 4) - T1| = 46340`, `|T3| = 4095`. -/
theorem witness_TemperatureOverflowFreeBox :
    let s := { computing .compT 0 741440 0 0 with cal := { calA with t1 := 0, t2 := 16383, t3 := -4095 } }
    s.cal.t2.toInt.natAbs ≤ 16383 ∧ (((s.rawT.toNat / 16 : Nat) : Int) - (s.cal.t1.toNat : Int)).natAbs ≤ 46340 ∧
      s.cal.t3.toInt.natAbs ≤ 4095 := by decide
/-- `P1 = 0` makes the product 0, the lower end of the range. -/
theorem witness_ZeroDenominatorEscape :
    let s := { computing .compP 415148 0 0 128422 with cal := { calA with p1 := 0 } }
    s.cal.p1 = 0 ∧ pressureDenominator s.tfine.toInt s.cal.p1.toNat s.cal.p2.toInt s.cal.p3.toInt = 0 ∧
      see (step s) (fun t => (t.outP, t.seq)) = some (0, .compH) := by decide
/-- The humidity vectors below 0 and above the clamp, and `z = 0` (V-CAL-C). -/
theorem witness_HumidityClamp :
    humidityUnclamped 0 128422 75 367 0 301 50 30 < 0 ∧ 419430400 < humidityUnclamped 65535 128422 75 367 0 301 50 30 ∧
      humidityUnclamped 0 0 0 0 0 0 0 0 = 0 := by decide
theorem witness_StatusCodesAndErrorBits : 3 < 4 ∧ (logError 0 .refused).getLsbD 3 = true := by decide
/-- A `GET_T` served from the cache. -/
theorem witness_DataOnlyFromAccessors :
    let s := { idle_ .dataReady [4] with outT := 2508 }
    step s = .next { s with cmds := [], cmdreg := 4, responses := [{ status := .ok, data := 2508 }] } ∧ (2508 : Word) ≠ 0 := ⟨rfl, by decide⟩
/-- A step that answers and one that does not. -/
theorem witness_ErrorLogIsSticky :
    NoReset (idle_ .reset [2]) ∧ see (step (idle_ .reset [2])) (fun t => (t.responses.length, t.errlog)) = some (1, 0b0100) ∧
      NoReset (idle_ .reset [1]) ∧ see (step (idle_ .reset [1])) (fun t => (t.responses, t.errlog)) = some ([], 0) := by decide
theorem witness_CoefficientsWritten :
    let s := { at_ .calDecode .reset [] with calbuf1 := blockA1, calbuf2 := blockA2 }
    NoReset s ∧ see (step s) (fun t => decide (t.cal ≠ s.cal)) = some true := by decide
/-- For the successor and state tables, the bus events, the growth of the records: an `INIT` phase under its command. -/
theorem witness_whole_machine :
    let s := polling none 0 [.ok 1, .ok 0]
    NoReset s ∧ Runs s ∧ phaseAgrees s.seq s.sstate s.cmdreg ∧ see (step s) (fun t => decide (t.hist ≠ s.hist)) = some true ∧
      s.sstate = .reset := ⟨by decide, by decide, ⟨rfl, rfl⟩, by decide, rfl⟩
/-- A phase that hangs, and a hung engine, for the clauses of the successor table. -/
theorem witness_SuccessorTable_hang :
    let s := polling none 0 [.hang]
    NoReset s ∧ Runs s ∧ see (step s) (fun t => (t.hung, decide (t.seq = s.seq))) = some (true, true) ∧
      NoReset { s with hung := true, csn := false } := by decide
/-- A transaction placed from outside, the other clause of the successor table. -/
theorem witness_SuccessorTable_frame :
    let s := { at_ .idle .reset [.ok 1, .ok 2] with busReq := some (.write 0x60#7 0xB6#8) }
    NoReset s ∧ s.busReq.isSome = true ∧ see (step s) (·.seq) = some s.seq := by decide
/-- The invariant at a state in the middle of a poll, and that it steps. -/
theorem witness_InvariantKept : Inv (polling (some 3) 1 [.ok 1, .ok 1]) ∧ Safe (polling (some 3) 1 [.ok 1, .ok 1]) := by
  refine ⟨⟨.inl rfl, rfl, ⟨rfl, rfl⟩, ?_, ?_, ?_, ?_, ?_, by decide, by decide, by decide, ?_⟩, ⟨_, rfl⟩⟩
  · intro h; exact absurd h (by decide)
  · intro h; exact absurd h (by decide)
  · intro h; exact absurd h (by decide)
  · intro h; exact absurd h (by decide)
  · intro h; exact absurd h (by decide)
  · intro _ limit h; cases h; decide
/-- Two states that differ in a register no value of which counts. -/
theorem witness_UnwrittenRegisters :
    AgreeOnLive State.reset { State.reset with tfine := 5, outH := 7, mreg := 3 } ∧
      phaseAgrees State.reset.seq State.reset.sstate State.reset.cmdreg := by
  refine ⟨⟨rfl, rfl, rfl, rfl, rfl, rfl, rfl, rfl, rfl, rfl, rfl, rfl, rfl, rfl, fun _ => rfl, fun _ => rfl, ?_, fun _ => rfl, fun _ => rfl, fun _ => rfl,
    fun _ => rfl, fun _ => rfl, fun _ => rfl, fun _ => rfl, ?_, fun _ => rfl, fun _ => rfl, ?_⟩, trivial⟩
  · intro h; exact absurd h (by decide)
  · intro h; exact absurd h (by decide)
  · intro h; exact absurd h (by decide)
theorem witness_RepeatedAccessors :
    let s := idle_ .dataReady [4, 5, 6, 1]
    Runs s ∧ s.seq = .idle ∧ s.sstate = .dataReady ∧ s.cmds = [4, 5, 6] ++ [1] ∧
      ∀ c ∈ [4#3, 5#3, 6#3], c = 0b100#3 ∨ c = 0b101#3 ∨ c = 0b110#3 := by decide
/-- One busy answer of a status poll. -/
abbrev once : List (Byte × Byte) := [(3, 1)]
/-- One busy answer, then ready, with the bound at exactly two reads. -/
def witnessInit : State :=
  { idle_ .reset [1] with
    cfg := { Config.default with pollLimit := some 2 }
    answers := ([1#8, 2#8] ++ once.flatMap (fun p : Byte × Byte => [p.1, p.2]) ++ [4#8, 0xFE#8] ++ 5#8 :: blockA1.toList ++
      6#8 :: blockA2.toList ++ [7#8, 8#8] ++ [9#8, 10#8]).map .ok ++ [] }
theorem witness_InitRun :
    Runs witnessInit ∧ witnessInit.seq = .idle ∧ witnessInit.sstate = .reset ∧ witnessInit.cmds = 0b001#3 :: [] ∧
      (∀ p ∈ once, p.2.getLsbD 0 = true) ∧ (0xFE#8).getLsbD 0 = false ∧ witnessInit.cfg.pollLimit = some 2 ∧ once.length + 1 ≤ 2 ∧
      ∀ b ∈ witnessInit.delays.take once.length, b = true :=
  ⟨⟨rfl, rfl, rfl, rfl⟩, rfl, rfl, rfl, by simp, by decide, rfl, by decide, by decide⟩
/-- A bound of one read, and one busy answer. -/
def witnessTimeout : State :=
  { idle_ .reset [1] with
    cfg := { Config.default with pollLimit := some 1 }
    answers := ([1#8, 2#8] ++ once.flatMap (fun p : Byte × Byte => [p.1, p.2])).map .ok ++ [] }
theorem witness_InitTimeoutRun :
    Runs witnessTimeout ∧ witnessTimeout.seq = .idle ∧ witnessTimeout.sstate = .reset ∧ witnessTimeout.cmds = 0b001#3 :: [] ∧
      (∀ p ∈ once, p.2.getLsbD 0 = true) ∧ witnessTimeout.cfg.pollLimit = some once.length ∧
      ∀ b ∈ witnessTimeout.delays.take (once.length - 1), b = true :=
  ⟨⟨rfl, rfl, rfl, rfl⟩, rfl, rfl, rfl, by simp, rfl, by decide⟩
theorem witness_ForceRun :
    let s := { idle_ .measuring [2] with answers := [1, 0x24, 3, 4].map .ok ++ [] }
    Runs s ∧ s.seq = .idle ∧ s.calvalid = true ∧ s.cmds = 0b010#3 :: [] ∧ s.answers = [1, 0x24, 3, 4].map .ok ++ [] := by decide
theorem witness_FetchRun :
    let s := { idle_ .idle [6] with answers := (9 :: blockA2.toList).map .ok ++ [] }
    Runs s ∧ s.seq = .idle ∧ s.sstate = .idle ∧ s.cmds = 0b110#3 :: [] ∧ s.answers = (9 :: blockA2.toList).map .ok ++ [] := by decide
theorem witness_BigStep :
    (Runs (idle_ .idle [2]) ∧ (idle_ .idle [2]).seq = .idle ∧ (idle_ .idle [2]).cmds = 0b010#3 :: []) ∧
      (idle_ .idle [5]).cmds = 0b101#3 :: [] := by decide
/-- An `INIT` that its first exchange ends, and one whose poll times out within its fuel. -/
theorem witness_InitAgreesWithBigStep :
    Runs (idle_ .reset [1]) ∧ (bigInit 0 { idle_ .reset [] with answers := [.fail] }).isSome = true ∧
      (bigInit 1 { polling (some 1) 0 [.ok 1, .ok 2, .ok 3, .ok 1] with seq := .idle }).isSome = true := by decide

end Sys2Proof.Tests
end

/-! PROOFS. The statements of `10_state.md`: the state at reset (R35), what `ERRLOG` records (R24), who writes `CAL` (R20), the invariant
(R34). A transaction is dealt with once, for each way it ends; a phase is then an update of the registers of the state it leaves. -/

namespace Sys2Proof.Safety

open Machine

/-! ### The framing of the history (spec/20_memory.md R44) -/

theorem lineAfterAll_append (low : Bool) (es fs : List BusEvent) :
    lineAfterAll low (es ++ fs) = (lineAfterAll low es).bind (lineAfterAll · fs) := by
  induction es generalizing low with
  | nil => rfl
  | cons e es ih => simp [lineAfterAll, ih, Option.bind_assoc]

/-- Inside a transaction the successful exchanges leave the line low. -/
theorem lineAfterAll_xfers (sent rx : List Byte) : lineAfterAll true (List.zipWith .xfer sent rx) = some true := by
  induction sent generalizing rx with
  | nil => rfl
  | cons tx sent ih => cases rx with
    | nil => rfl
    | cons r rx => simpa [lineAfterAll, lineAfter] using ih rx

/-- The exchange that ends a transaction leaves the line low, whether it has an event or not. -/
theorem lineAfterAll_stopEvents (tx : Byte) (stop : Answer) : lineAfterAll true (stopEvents tx stop) = some true := by
  cases stop <;> rfl

/-- A history that leaves the line high, extended by events that keep to the framing from there. -/
theorem Framed.append {hist es : List BusEvent} {csn : Bool} (h : Framed hist true) (he : lineAfterAll false es = some !csn) :
    Framed (hist ++ es) csn := by
  rw [Framed, lineAfterAll_append, h]; exact he

theorem Framed.transaction {hist : List BusEvent} (h : Framed hist true) (sent rx : List Byte) :
    Framed (hist ++ transactionEvents sent rx) true :=
  h.append (by simp [transactionEvents, lineAfterAll_append, lineAfterAll_xfers, lineAfterAll, lineAfter])

theorem Framed.failure {hist : List BusEvent} (h : Framed hist true) (sent rx : List Byte) :
    Framed (hist ++ failureEvents sent rx) true :=
  h.append (by simp [failureEvents, lineAfterAll_append, lineAfterAll_xfers, lineAfterAll, lineAfter])

/-- A transaction that never ends leaves the line low. -/
theorem Framed.unfinished {hist : List BusEvent} (h : Framed hist true) (sent rx : List Byte) :
    Framed (hist ++ ([.sel false] ++ List.zipWith .xfer sent rx)) false :=
  h.append (by simp [lineAfterAll_xfers, lineAfterAll, lineAfter])

/-- A transaction cut off by `rst`, which raises the line (spec/70_reset_and_hazards.md R250). -/
theorem Framed.cutOff {hist : List BusEvent} (h : Framed hist true) (sent rx : List Byte) (tx : Byte) (stop : Answer) :
    Framed (hist ++ ([.sel false] ++ List.zipWith .xfer sent rx ++ stopEvents tx stop ++ [.sel true])) true :=
  h.append (by simp [lineAfterAll_append, lineAfterAll_xfers, lineAfterAll_stopEvents, lineAfterAll, lineAfter])

theorem Framed.delay {hist : List BusEvent} (h : Framed hist true) (ms : Nat) : Framed (hist ++ [.delay ms]) true :=
  h.append rfl

/-- A hardware reset raises a line that is low. -/
theorem Framed.raised {hist : List BusEvent} {csn : Bool} (h : Framed hist csn) :
    Framed (if csn then hist else hist ++ [.sel true]) true := by
  cases csn with
  | true => exact h
  | false =>
    have hlow : lineAfterAll false hist = some true := h
    simp [Framed, lineAfterAll_append, hlow, lineAfterAll, lineAfter]

/-! ### Bounds of what the phases compute -/

theorem clamp_le (x : Int) {lo hi : Int} (h : lo ≤ hi) : clamp x lo hi ≤ hi := by
  unfold clamp
  split
  · exact h
  · split <;> omega

/-- The clamp and the final shift bound `OUT_H` (spec/42_compensation_engine.md R186). -/
theorem humidity_le (rawH : Nat) (tfine h1 h2 h3 h4 h5 h6 : Int) : humidity rawH tfine h1 h2 h3 h4 h5 h6 ≤ 102400 := by
  have hz := clamp_le (humidityUnclamped rawH tfine h1 h2 h3 h4 h5 h6) (lo := 0) (hi := 419430400) (by decide)
  rw [humidity, lsr]
  omega

theorem compOutH_toNat_le (rawH : BitVec 16) (tfine : Word) (c : Cal) : (compOutH rawH tfine c).toNat ≤ 102400 := by
  rw [compOutH, BitVec.toNat_ofNat]
  exact (Nat.mod_le _ _).trans (humidity_le ..)

/-- `H4` and `H5` are 12-bit values in 16-bit registers (spec/30_encoding.md R84). -/
theorem in12_sext12 (p : BitVec 12) : In12 (sext12 p) := by
  have hlo := BitVec.le_toInt p
  have hhi := BitVec.toInt_lt (x := p)
  rw [In12, sext12, BitVec.toInt_signExtend_of_le (by omega)]
  omega

/-! ### The invariant at reset -/

/-- The reset registers satisfy the invariant under any framed history and in any environment (spec/10_state.md R35). -/
theorem inv_resetWith {s : State} (hf : Framed s.hist true) :
    Inv { State.resetWith s.cfg with
      hist := s.hist, responses := s.responses, cmds := s.cmds, answers := s.answers, delays := s.delays, rst := s.rst
      busReq := s.busReq, busOut := s.busOut } where
  select := .inl rfl
  framed := hf
  phase := trivial
  calibrated := by simp [State.resetWith, State.calvalid]
  temperature := by simp [State.resetWith]
  pressure := by simp [State.resetWith]
  humidity := by simp [State.resetWith]
  failed := by simp [State.resetWith]
  outH := by simp [State.resetWith]
  h4 := by simp [State.resetWith, Cal.reset, In12]
  h5 := by simp [State.resetWith, Cal.reset, In12]
  polls := by simp [State.resetWith]

/-- A hardware reset brings the invariant about from any framed history (spec/70_reset_and_hazards.md R250, R251). -/
theorem inv_hardwareReset {s : State} (hf : Framed s.hist s.csn) : Inv (hardwareReset s) :=
  inv_resetWith (s := { s with hist := if s.csn then s.hist else s.hist ++ [.sel true], rst := false }) hf.raised

/-- `rst` inside a transaction. -/
theorem inv_afterReset {s : State} (hf : Framed s.hist true) (sent rx : List Byte) (stop : Answer) :
    Inv (afterReset s sent rx stop) :=
  inv_resetWith (s := { afterReset s sent rx stop with cfg := s.cfg }) (hf.cutOff ..)

/-! ### The invariant and the environment: transactions, errors -/

/-- While the engine does not hang, the history is framed with the line high (spec/10_state.md R30). -/
theorem Inv.framed_high {s : State} (h : Inv s) (hh : s.hung = false) : Framed s.hist true := by
  have hcsn : s.csn = true := h.select.resolve_right (by simp [hh])
  exact hcsn ▸ h.framed

theorem Inv.afterDone {s : State} (h : Inv s) (hh : s.hung = false) (sent rx : List Byte) : Inv (afterDone s sent rx) :=
  { h with select := .inl rfl, framed := (h.framed_high hh).transaction sent rx }

theorem Inv.afterFailure {s : State} (h : Inv s) (hh : s.hung = false) (sent rx : List Byte) : Inv (afterFailure s sent rx) :=
  { h with select := .inl rfl, framed := (h.framed_high hh).failure sent rx }

theorem Inv.afterHang {s : State} (h : Inv s) (hh : s.hung = false) (sent rx : List Byte) : Inv (afterHang s sent rx) :=
  { h with select := .inr rfl, framed := (h.framed_high hh).unfinished sent rx }

/-- A call of `Delay` between transactions (spec/60_exceptions.md R232). -/
theorem Inv.afterDelay {s : State} (h : Inv s) (hh : s.hung = false) (ms : Nat) (delays : List Bool) (hung : Bool) :
    Inv { s with hist := s.hist ++ [.delay ms], delays := delays, hung := hung } := by
  have hcsn : s.csn = true := h.select.resolve_right (by simp [hh])
  exact { h with select := .inl hcsn, framed := hcsn ▸ (h.framed_high hh).delay ms }

/-- The invariant says nothing of the host's side and of the port for placed transactions (logs 6 and 7). -/
theorem Inv.withPorts {s : State} (h : Inv s) (cmds : List (BitVec 3)) (responses : List Response) (busReq : Option Transaction)
    (busOut : Option (List Byte)) : Inv { s with cmds := cmds, responses := responses, busReq := busReq, busOut := busOut } :=
  { h with }

/-- In `IDLE`, with any command latched, what is said of `SSTATE` is as it was. -/
theorem Inv.idle {s : State} (h : Inv s) (c : BitVec 3) : Inv { s with cmdreg := c, seq := .idle } :=
  { h with
    phase := trivial
    calibrated := fun hq => h.calibrated (.inl (hq.resolve_right (by simp)))
    temperature := fun hq => h.temperature (.inr (.inr (by simpa using hq)))
    pressure := fun hq => h.pressure (.inr (by simpa using hq))
    polls := by simp }

/-- `ERRLOG` loses no bit (spec/10_state.md R24). -/
theorem logError_getLsbD_of {errlog : BitVec 4} {k : Nat} (h : errlog.getLsbD k = true) (e : Error) :
    (logError errlog e).getLsbD k = true := by
  simp [logError, h]

theorem errorState_of_ne_init {d : During} (hd : d ≠ .init) (x : SState) : errorState d x = x := by
  cases d with
  | init => exact absurd rfl hd
  | dispatch | force | fetch => rfl

/-- An error that leaves `SSTATE` as it is: at dispatch, in `FORCE`, in a fetch (spec/60_exceptions.md R220 to R222). -/
theorem Inv.raise_keep {s : State} (h : Inv s) (e : Error) {d : During} (hd : d ≠ .init) : Inv (raise e d s) := by
  have hlog : Inv { s with errlog := logError s.errlog e } :=
    { h with failed := fun hs => (h.failed hs).imp (logError_getLsbD_of · e) (logError_getLsbD_of · e) }
  have := (hlog.idle s.cmdreg).withPorts s.cmds (s.responses ++ [{ status := .error e, data := 0 }]) s.busReq s.busOut
  simpa only [raise, respond, errorState_of_ne_init hd] using this

/-- An error inside `INIT` leads to `Failed` with its bit logged (spec/60_exceptions.md R219). -/
theorem Inv.raise_init {s : State} (h : Inv s) {e : Error} (he : e = .transportFailure ∨ e = .initTimeout) :
    Inv (raise e .init s) :=
  { h with
    phase := trivial
    calibrated := by simp [raise, respond, errorState, State.calvalid]
    temperature := by simp [errorState]
    pressure := by simp [errorState]
    humidity := by simp [errorState]
    failed := fun _ => by rcases he with rfl | rfl <;> simp [logError, Error.bit]
    polls := by simp }

/-! ### The invariant and the phases -/

/-- The phase in `SEQ` fits `SSTATE` and `CMDREG`, with the phase named. -/
theorem Inv.phase_at {s : State} (h : Inv s) {p : Phase} (hq : s.seq = p) : phaseAgrees p s.sstate s.cmdreg := hq ▸ h.phase

/-- The coefficients are the decoded ones in a state `FORCE` and the fetches run in (spec/10_state.md R34 (b)). -/
theorem Inv.decoded {s : State} (h : Inv s) (hx : s.sstate = .idle ∨ s.sstate = .measuring) :
    s.cal = decodeCal s.calbuf1 s.calbuf2 :=
  h.calibrated (.inl ((calvalid_iff s).mpr (hx.imp_right .inl)))

/-- `FORCE` and the fetches run where there are no cached results (spec/10_state.md R22). -/
theorem ne_dataReady {x : SState} (hx : x = .idle ∨ x = .measuring) : x ≠ .dataReady := by
  rcases hx with rfl | rfl <;> decide

/-- `INIT` up to `CAL_DECODE`: the buffers may be written, and only the bound of the poll has to be seen to
(spec/41_measurement_controller.md R131 to R136). -/
theorem Inv.beforeDecode {s : State} (h : Inv s) (hs : s.sstate = .reset) (hc : s.cmdreg = 0b001#3) (p : Phase)
    (hp : p ∈ [.resetWr, .pollRd, .pollWait, .cal1Rd, .cal2Rd, .calDecode]) (b1 : Vector Byte 26) (b2 : Vector Byte 8) {n : Nat}
    (hn : p = .pollRd ∨ p = .pollWait → ∀ limit, s.cfg.pollLimit = some limit → n < limit) :
    Inv { s with calbuf1 := b1, calbuf2 := b2, pollcnt := n, seq := p } where
  select := h.select
  framed := h.framed
  phase := by
    show phaseAgrees p s.sstate s.cmdreg
    fin_cases hp <;> exact ⟨hs, hc⟩
  calibrated := by fin_cases hp <;> simp [State.calvalid, hs]
  temperature := by fin_cases hp <;> simp [hs]
  pressure := by fin_cases hp <;> simp [hs]
  humidity := h.humidity
  failed := h.failed
  outH := h.outH
  h4 := h.h4
  h5 := h.h5
  polls := hn

/-- Outside `DataReady`, with the coefficients decoded and nothing computed yet: where `INIT` ends, and where `FORCE` and a fetch
run up to `COMP_T` (spec/41_measurement_controller.md R139 to R151). -/
theorem Inv.calibratedAt {s : State} (h : Inv s) (hcal : s.cal = decodeCal s.calbuf1 s.calbuf2) {x : SState}
    (hx : x = .idle ∨ x = .measuring) (p : Phase) (hp : p ∈ [.idle, .forceRd, .forceWr, .dataRd, .rawDecode, .compT])
    (hpx : phaseAgrees p x s.cmdreg) : Inv { s with sstate := x, seq := p } where
  select := h.select
  framed := h.framed
  phase := hpx
  calibrated := fun _ => hcal
  temperature := by fin_cases hp <;> simp [ne_dataReady hx]
  pressure := by fin_cases hp <;> simp [ne_dataReady hx]
  humidity := by simp [ne_dataReady hx]
  failed := by rcases hx with rfl | rfl <;> simp
  outH := h.outH
  h4 := h.h4
  h5 := h.h5
  polls := by fin_cases hp <;> simp

/-- `FORCE_RD`: no clause speaks of `MREG` (spec/10_state.md R28). -/
theorem Inv.forceRd {s : State} (h : Inv s) (hq : s.seq = .forceRd) (m : Byte) : Inv { s with mreg := m, seq := .forceWr } := by
  obtain ⟨hs, hc⟩ := h.phase_at hq
  exact { h.calibratedAt (h.decoded (.inl hs)) (.inl hs) .forceWr (by decide) ⟨hs, hc⟩ with }

/-- `DATA_RD`: no clause speaks of `DATABUF` (spec/10_state.md R29). -/
theorem Inv.dataRd {s : State} (h : Inv s) (hq : s.seq = .dataRd) (d : Vector Byte 8) : Inv { s with databuf := d, seq := .rawDecode } := by
  obtain ⟨hx, hc⟩ := h.phase_at hq
  exact { h.calibratedAt (h.decoded hx) hx .rawDecode (by decide) ⟨hx, hc⟩ with }

/-- `CAL_DECODE`: the coefficients become the decoded ones, `H4` and `H5` among them (spec/40_calibration_decoder.md R100, R122). -/
theorem Inv.calDecode {s : State} (h : Inv s) (hq : s.seq = .calDecode) :
    Inv { s with cal := decodeCal s.calbuf1 s.calbuf2, seq := .cfgHumWr } := by
  obtain ⟨hs, hc⟩ := h.phase_at hq
  exact { h with
    phase := ⟨hs, hc⟩
    calibrated := fun _ => rfl
    temperature := by simp [hs]
    pressure := by simp [hs]
    humidity := by simp [hs]
    h4 := in12_sext12 _
    h5 := in12_sext12 _
    polls := by simp }

theorem Inv.cfgHumWr {s : State} (h : Inv s) (hq : s.seq = .cfgHumWr) : Inv { s with seq := .cfgMeasWr } := by
  obtain ⟨hs, hc⟩ := h.phase_at hq
  exact { h with
    phase := ⟨hs, hc⟩
    calibrated := fun _ => h.calibrated (.inr (.inl hq))
    temperature := by simp [hs]
    pressure := by simp [hs]
    polls := by simp }

/-- `RAW_DECODE`: no result is computed from the new counts yet (spec/41_measurement_controller.md R151). -/
theorem Inv.rawDecode {s : State} (h : Inv s) (hq : s.seq = .rawDecode) (p t : BitVec 20) (hum : BitVec 16) :
    Inv { s with rawP := p, rawT := t, rawH := hum, seq := .compT } := by
  obtain ⟨hx, hc⟩ := h.phase_at hq
  have hmove := h.calibratedAt (h.decoded hx) hx .compT (by decide) ⟨hx, hc⟩
  have hfresh := ne_dataReady hx
  exact { hmove with
    temperature := by simp [hfresh]
    pressure := by simp [hfresh]
    humidity := by simp [hfresh] }

theorem Inv.compT {s : State} (h : Inv s) (hq : s.seq = .compT) :
    Inv { s with tfine := compTfine s.rawT s.cal, outT := compOutT (compTfine s.rawT s.cal), seq := .compP } := by
  obtain ⟨hx, hc⟩ := h.phase_at hq
  have hfresh := ne_dataReady hx
  exact { h with
    phase := ⟨hx, hc⟩
    calibrated := fun _ => h.decoded hx
    temperature := fun _ => ⟨rfl, rfl⟩
    pressure := by simp [hfresh]
    humidity := by simp [hfresh]
    polls := by simp }

theorem Inv.compP {s : State} (h : Inv s) (hq : s.seq = .compP) :
    Inv { s with outP := compOutP s.rawP s.tfine s.cal, seq := .compH } := by
  obtain ⟨hx, hc⟩ := h.phase_at hq
  exact { h with
    phase := ⟨hx, hc⟩
    calibrated := fun _ => h.decoded hx
    temperature := fun _ => h.temperature (.inl hq)
    pressure := fun _ => rfl
    polls := by simp }

/-- `COMP_H` completes the results of one sample, and `OUT_H` is within its bound (spec/42_compensation_engine.md R186, R188). -/
theorem Inv.compH {s : State} (h : Inv s) (hq : s.seq = .compH) :
    Inv { s with outH := compOutH s.rawH s.tfine s.cal, sstate := .dataReady, seq := .idle } := by
  obtain ⟨hx, -⟩ := h.phase_at hq
  exact { h with
    phase := trivial
    calibrated := fun _ => h.decoded hx
    temperature := fun _ => h.temperature (.inr (.inl hq))
    pressure := fun _ => h.pressure (.inl hq)
    humidity := fun _ => rfl
    failed := by simp
    outH := compOutH_toNat_le ..
    polls := by simp }

/-- `POLL_RD`: ready, busy with reads left, or out of reads (spec/41_measurement_controller.md R133). -/
theorem Inv.pollTest {s : State} (h : Inv s) (hq : s.seq = .pollRd) (b : Byte) : Inv (pollTest b s) := by
  obtain ⟨hs, hc⟩ := h.phase_at hq
  rcases pollTest_cases b s with ⟨-, he⟩ | ⟨-, hl, he⟩ | ⟨-, -, he⟩ <;> rw [he]
  · exact h.beforeDecode hs hc _ (by decide) s.calbuf1 s.calbuf2 (by simp)
  · exact h.beforeDecode hs hc _ (by decide) s.calbuf1 s.calbuf2 fun _ => hl
  · have hcount := h.beforeDecode hs hc .cal1Rd (by decide) s.calbuf1 s.calbuf2 (n := s.pollcnt + 1) (by simp)
    exact hcount.raise_init (.inr rfl)

/-- A bound on the status reads, where there is one, is positive (spec/00_scope.md R6). -/
theorem pollLimit_pos {cfg : Config} (hok : cfg.ok = true) {limit : Nat} (hl : cfg.pollLimit = some limit) : 0 < limit := by
  have hne : cfg.pollLimit ≠ some 0 := by
    simp only [Config.ok, Bool.and_eq_true, bne_iff_ne] at hok
    exact hok.2
  exact Nat.pos_of_ne_zero fun h0 => hne (h0 ▸ hl)

/-- Every phase keeps the invariant. -/
theorem Inv.phaseStep {s t : State} (h : Inv s) (hr : Runs s) (hp : PhaseStep s t) : Inv t := by
  obtain ⟨hok, -, hh, -⟩ := hr
  cases hp with
  | wait => exact h
  | @refuse hq c cs hc e he =>
    exact ((h.idle c).withPorts cs s.responses s.busReq s.busOut).raise_keep e (d := .dispatch) (by decide)
  | init hq hc hs =>
    exact ((h.idle _).withPorts _ s.responses s.busReq s.busOut).beforeDecode hs rfl _ (by decide) s.calbuf1 s.calbuf2 (by simp)
  | force hq hc hs =>
    have hcal := h.calibrated (.inl hs)
    exact ((h.idle _).withPorts _ s.responses s.busReq s.busOut).calibratedAt hcal (.inl rfl) .forceRd (by decide) ⟨rfl, rfl⟩
  | cached hq hc ha hs => exact (h.idle _).withPorts _ _ s.busReq s.busOut
  | fetch hq hc ha hx =>
    exact ((h.idle _).withPorts _ s.responses s.busReq s.busOut).calibratedAt (h.decoded hx) hx .dataRd (by decide) ⟨hx, ha⟩
  | resetWr hq hd =>
    obtain ⟨hs, hc⟩ := h.phase_at hq
    refine (h.afterDone hh _ _).beforeDecode hs hc _ (by decide) s.calbuf1 s.calbuf2 fun _ limit hl => ?_
    exact pollLimit_pos hok hl
  | pollRd hq hd => exact (h.afterDone hh _ _).pollTest hq _
  | pollWait hq hd =>
    obtain ⟨hs, hc⟩ := h.phase_at hq
    exact (h.afterDelay hh 2 _ s.hung).beforeDecode hs hc _ (by decide) s.calbuf1 s.calbuf2 fun _ => h.polls (.inr hq)
  | pollWaitHangs hq hd => exact h.afterDelay hh 2 _ _
  | cal1Rd hq hd =>
    obtain ⟨hs, hc⟩ := h.phase_at hq
    exact (h.afterDone hh _ _).beforeDecode hs hc _ (by decide) _ s.calbuf2 (by simp)
  | cal2Rd hq hd =>
    obtain ⟨hs, hc⟩ := h.phase_at hq
    exact (h.afterDone hh _ _).beforeDecode hs hc _ (by decide) s.calbuf1 _ (by simp)
  | calDecode hq => exact h.calDecode hq
  | cfgHumWr hq hd => exact (h.afterDone hh _ _).cfgHumWr hq
  | cfgMeasWr hq hd =>
    have hcal := h.calibrated (.inr (.inr hq))
    exact ((h.afterDone hh _ _).calibratedAt hcal (.inl rfl) .idle (by decide) trivial).withPorts s.cmds _ s.busReq s.busOut
  | forceRd hq hd => exact (h.afterDone hh _ _).forceRd hq _
  | forceWr hq hd =>
    obtain ⟨hs, -⟩ := h.phase_at hq
    have hcal := h.decoded (.inl hs)
    exact ((h.afterDone hh _ _).calibratedAt hcal (.inr rfl) .idle (by decide) trivial).withPorts s.cmds _ s.busReq s.busOut
  | dataRd hq hd => exact (h.afterDone hh _ _).dataRd hq _
  | rawDecode hq => exact h.rawDecode hq _ _ _
  | compT hq => exact h.compT hq
  | compP hq => exact h.compP hq
  | compH hq => exact (h.compH hq).withPorts s.cmds _ s.busReq s.busOut
  | failed hq hp hd =>
    by_cases hinit : duringOf s.seq = .init
    · rw [hinit]; exact (h.afterFailure hh _ _).raise_init (.inl rfl)
    · exact (h.afterFailure hh _ _).raise_keep _ hinit
  | cutOff hq hp hd => exact inv_afterReset (h.framed_high hh) ..
  | hangs hq hp hd => exact h.afterHang hh _ _

/-- Settles O52: a step is `rst`, no progress, a placed transaction, or a phase, and each keeps the invariant. -/
theorem invariantKept : Obligations.InvariantKept := by
  intro s t h hstep
  cases (stepEffect_of_step hstep).2 with
  | rst => exact inv_hardwareReset h.framed
  | stuck => exact h
  | placedDone hh hq hd => exact (h.afterDone hh _ _).withPorts s.cmds s.responses none _
  | placedFails hh hq hd => exact (h.afterFailure hh _ _).withPorts s.cmds s.responses none none
  | placedReset hh hq hd => exact (inv_afterReset (h.framed_high hh) ..).withPorts s.cmds s.responses none none
  | placedHangs hh hq hd => exact (h.afterHang hh _ _).withPorts s.cmds s.responses none none
  | phase hr hp => exact h.phaseStep hr hp

/-- Settles O51: nothing has happened on the bus, and every register holds its reset value. -/
theorem invariantAtReset : Obligations.InvariantAtReset := by
  intro cfg cmds answers delays rst busReq
  exact inv_resetWith
    (s := { State.resetWith cfg with cmds := cmds, answers := answers, delays := delays, rst := rst, busReq := busReq }) rfl

/-- Settles O10: each value is the one the reset state is defined with. -/
theorem resetState : Obligations.ResetState := by
  intro cfg
  exact ⟨rfl, rfl, rfl, rfl, rfl, rfl, rfl, rfl⟩

/-! ### What a step logs, and what it leaves in `CAL` -/

/-- With no `rst` in the script, no transaction is cut off. -/
theorem not_resetAfter_of_noReset {s : State} (hn : NoReset s) {sent rx : List Byte} {stop : Answer} : ¬ ResetAfter s sent rx stop := by
  rintro ⟨hi, hs⟩
  simp [stopsFrom_reset_eq_false hi hn.2] at hs

/-- From `s` to `t`, `ERRLOG` and the responses moved together (spec/10_state.md R24): nothing was answered and nothing logged, or one
response was given and its error, if it is one, logged. -/
def LogsWhatItAnswers (s t : State) : Prop :=
  (t.responses = s.responses ∧ t.errlog = s.errlog) ∨
    ∃ r : Response, t.responses = s.responses ++ [r] ∧
      ((r.status = .ok ∧ t.errlog = s.errlog) ∨ (∃ e, r.status = .error e ∧ r.data = 0 ∧ t.errlog = logError s.errlog e))

/-- `raise` logs the error it answers with (spec/60_exceptions.md R218). -/
theorem logsWhatItAnswers_raise {s u : State} (hr : u.responses = s.responses) (hl : u.errlog = s.errlog) (e : Error) (d : During) :
    LogsWhatItAnswers s (raise e d u) :=
  .inr ⟨_, by rw [raise_responses, hr], .inr ⟨e, rfl, rfl, by rw [raise_errlog, hl]⟩⟩

/-- A response `OK` logs nothing. -/
theorem logsWhatItAnswers_ok {s t : State} {d : Word} (hr : t.responses = s.responses ++ [{ status := .ok, data := d }])
    (hl : t.errlog = s.errlog) : LogsWhatItAnswers s t :=
  .inr ⟨_, hr, .inl ⟨rfl, hl⟩⟩

theorem logsWhatItAnswers_of_phaseStep {s t : State} (hn : NoReset s) (hp : PhaseStep s t) : LogsWhatItAnswers s t := by
  cases hp with
  | wait | init | force | fetch | resetWr | pollWait | pollWaitHangs | cal1Rd | cal2Rd | calDecode | cfgHumWr | forceRd | dataRd | rawDecode
  | compT | compP | hangs => exact .inl ⟨rfl, rfl⟩
  | refuse | failed => exact logsWhatItAnswers_raise rfl rfl _ _
  | cached | cfgMeasWr | forceWr | compH => exact logsWhatItAnswers_ok rfl rfl
  | pollRd hq hd =>
    rcases pollTest_cases _ (afterDone s _ _) with ⟨-, he⟩ | ⟨-, -, he⟩ | ⟨-, -, he⟩ <;> rw [he]
    · exact .inl ⟨rfl, rfl⟩
    · exact .inl ⟨rfl, rfl⟩
    · exact logsWhatItAnswers_raise rfl rfl _ _
  | cutOff hq hp hd => exact absurd hd (not_resetAfter_of_noReset hn)

/-- Settles O45: a phase logs what it answers, and without a reset no other step answers or logs. -/
theorem errorLogIsSticky : Obligations.ErrorLogIsSticky := by
  intro s t hn hstep
  cases (stepEffect_of_step hstep).2 with
  | rst hr => simp [hn.1] at hr
  | stuck | placedDone | placedFails | placedHangs => exact .inl ⟨rfl, rfl⟩
  | placedReset hh hq hd => exact absurd hd (not_resetAfter_of_noReset hn)
  | phase hr hp => exact logsWhatItAnswers_of_phaseStep hn hp

@[simp] theorem pollTest_cal (b : Byte) (s : State) : (pollTest b s).cal = s.cal := by
  rcases pollTest_cases b s with ⟨-, he⟩ | ⟨-, -, he⟩ | ⟨-, -, he⟩ <;> simp [he]

/-- A phase leaves `CAL` as it is, or is `CAL_DECODE` (spec/40_calibration_decoder.md R100). -/
theorem cal_of_phaseStep {s t : State} (hn : NoReset s) (hp : PhaseStep s t) :
    t.cal = s.cal ∨ (s.seq = .calDecode ∧ t.cal = decodeCal s.calbuf1 s.calbuf2) := by
  cases hp with
  | calDecode hq => exact .inr ⟨hq, rfl⟩
  | pollRd => exact .inl (pollTest_cal ..)
  | cutOff hq hp hd => exact absurd hd (not_resetAfter_of_noReset hn)
  | wait | refuse | init | force | cached | fetch | resetWr | pollWait | pollWaitHangs | cal1Rd | cal2Rd | cfgHumWr | cfgMeasWr | forceRd
  | forceWr | dataRd | rawDecode | compT | compP | compH | failed | hangs => exact .inl rfl

/-- Settles O46: only a phase can change `CAL` where no reset comes, and then it is `CAL_DECODE`. -/
theorem coefficientsWrittenByCalDecodeAlone : Obligations.CoefficientsWrittenByCalDecodeAlone := by
  intro s t hn hstep hne
  cases (stepEffect_of_step hstep).2 with
  | rst hr => simp [hn.1] at hr
  | stuck | placedDone | placedFails | placedHangs => exact absurd rfl hne
  | placedReset hh hq hd => exact absurd hd (not_resetAfter_of_noReset hn)
  | phase hr hp => exact ⟨hr, (cal_of_phaseStep hn hp).resolve_left hne⟩

end Sys2Proof.Safety

/-! PROOFS. The statements of `20_memory.md`: what a transaction does on the bus (R44 to R51), alone and as a row of format A, what byte lists
are no transaction (R44, R46, R47), that the records of a run only grow (R48), and the configurations a step refuses (R41). -/

namespace Sys2Proof.Safety

open Machine

/-! ### Transactions (spec/20_memory.md R44, R51) -/

/-- Settles O13: `transact_of_delivers` and `transact_of_fails` say how a transaction ends that is delivered or fails. (The name
`transactionEvents` is the model's list of events.) -/
theorem transactionEvents_of_transact : Obligations.TransactionEvents :=
  fun _ _ => ⟨fun _ => transact_of_delivers, fun _ => transact_of_fails⟩

/-- Settles O14: the bus does one of four things, and each decides the transaction. -/
theorem transactionOutcomes : Obligations.TransactionOutcomes := by
  intro s sent
  rcases bus_cases s sent with ⟨rx, h, hl⟩ | ⟨rx, h⟩ | ⟨rx, stop, h⟩ | ⟨rx, h⟩
  · exact .inl ⟨rx, hl, h, transact_of_delivers h⟩
  · exact .inr (.inl ⟨rx, stopsFrom_length h, h, transact_of_fails h⟩)
  · obtain ⟨t, ht, hreset⟩ := transact_of_resets h
    exact .inr (.inr (.inl ⟨rx, stop, t, stopsFrom_length h.2, h, ht, hreset⟩))
  · exact .inr (.inr (.inr ⟨rx, stopsFrom_length h, h, transact_of_hangs h⟩))

/-! ### The rows of format A run on their own (spec/20_memory.md R49, R50) -/

/-- `rst` inside a transaction run on its own resets, and takes its value away (log 7). -/
theorem deliver_reset {t u : State} (h : hardwareReset t = u) : deliver (.reset, t) = { u with busOut := none } := by
  rw [← h]; rfl

/-- An operation that delivers a `BusRead` is the read, whatever comes of it. -/
theorem readsOnBus_of_exec {i : Instr} {s : State} {a : BitVec 7} {n : Nat} (hi : exec i s = .next (deliver (busRead a n s))) :
    ReadsOnBus i s a n := by
  refine ⟨fun discarded bytes h => ⟨?_, ?_⟩, fun rx h => ?_, fun rx stop h => ?_, fun rx h => ?_⟩
  · exact busRead_length (busRead_of_delivers h)
  · rw [hi, busRead_of_delivers h]; rfl
  · rw [hi, busRead_of_fails h]; rfl
  · obtain ⟨t, ht, hreset⟩ := busRead_of_resets h
    rw [hi, ht, deliver_reset hreset]
  · rw [hi, busRead_of_hangs h]; rfl

/-- An operation that delivers a `BusWrite` is the write, whatever comes of it. -/
theorem writesOnBus_of_exec {i : Instr} {s : State} {a : BitVec 7} {v : Byte} (hi : exec i s = .next (deliver (busWrite a v s))) :
    WritesOnBus i s a v := by
  refine ⟨fun rx h => ?_, fun rx h => ?_, fun rx stop h => ?_, fun rx h => ?_⟩
  · rw [hi, busWrite_of_delivers h]; rfl
  · rw [hi, busWrite_of_fails h]; rfl
  · obtain ⟨t, ht, hreset⟩ := busWrite_of_resets h
    rw [hi, ht, deliver_reset hreset]
  · rw [hi, busWrite_of_hangs h]; rfl

/-- `BUS.READ` of at least one byte is not refused (spec/20_memory.md R49). -/
theorem exec_busRead {n : Nat} (hn : 1 ≤ n) (a : BitVec 7) (s : State) : exec (.busRead a n) s = .next (deliver (busRead a n s)) :=
  if_neg (Nat.ne_of_gt hn)

/-- Settles O15: the generic read is one where it has a byte to read, and each named read is one at its address and length. -/
theorem readTransactions : Obligations.ReadTransactions := fun s =>
  ⟨fun a _ hn => readsOnBus_of_exec (exec_busRead hn a s), fun _ => rfl, readsOnBus_of_exec rfl, readsOnBus_of_exec rfl,
    readsOnBus_of_exec rfl, readsOnBus_of_exec rfl, readsOnBus_of_exec rfl⟩

/-- Settles O16: each of the four rows delivers a `BusWrite` at its address. -/
theorem writeTransactions : Obligations.WriteTransactions := fun _ _ =>
  ⟨fun _ => writesOnBus_of_exec rfl, writesOnBus_of_exec rfl, writesOnBus_of_exec rfl, writesOnBus_of_exec rfl⟩

/-! ### Byte lists that are no transaction (spec/20_memory.md R44, R46, R47) -/

/-- The decoder refuses a byte list as `transactionOf` does: no transaction is refused (spec/30_encoding.md R94). -/
theorem decode_frame_error_iff {cfg : Config} {sent : List Byte} {e : DecodeError} :
    decode cfg (.frame sent) = .error e ↔ transactionOf sent = .error e := by
  simp only [decode, decodeFrame]
  cases transactionOf sent <;> simp

/-- The direction bit set: a read, as long as only `DUMMY` is sent. -/
theorem transactionOf_read {b : Byte} (hb : b.msb = true) (d : Byte) (ds : List Byte) : transactionOf (b :: d :: ds) =
    if (d :: ds).all (· == Config.dummy) then .ok (.read (wireAddr b) ds.length) else .error .readSendsData :=
  if_pos hb

/-- A read is refused exactly when it sends something else than `DUMMY` (spec/20_memory.md R46). -/
theorem transactionOf_read_error_iff {b d : Byte} {ds : List Byte} {e : DecodeError} (hb : b.msb = true) :
    transactionOf (b :: d :: ds) = .error e ↔ (∃ x ∈ d :: ds, x ≠ 0x00#8) ∧ e = .readSendsData := by
  have hdummy : (d :: ds).all (· == Config.dummy) = true ↔ ¬ ∃ x ∈ d :: ds, x ≠ 0x00#8 := by
    simp only [List.all_eq_true, beq_iff_eq, not_exists, not_and, not_not]
  rw [transactionOf_read hb]
  by_cases hx : ∃ x ∈ d :: ds, x ≠ 0x00#8
  · rw [if_neg fun hall => hdummy.mp hall hx]; simp only [hx, true_and, Except.error.injEq, eq_comm]
  · rw [if_pos (hdummy.mpr hx)]; simp only [hx, false_and, reduceCtorEq]

/-- A write is refused exactly when it sends more than one data byte (spec/20_memory.md R47). -/
theorem transactionOf_write_error_iff {b d : Byte} {ds : List Byte} {e : DecodeError} (hb : b.msb = false) :
    transactionOf (b :: d :: ds) = .error e ↔ ds ≠ [] ∧ e = .writeLength := by
  cases ds <;> simp [transactionOf, hb, eq_comm]

/-- Settles O4: by the format, then by the number of bytes, then by the direction. -/
theorem decodeRefusesExactlyMalformedFrames : Obligations.DecodeRefusesExactlyMalformedFrames := by
  intro cfg code e
  cases code with
  | command c => simp
  | phase c => simp
  | frame sent =>
    rw [decode_frame_error_iff]
    match sent with
    | [] => rw [transactionOf]; simpa using eq_comm
    | [b] => rw [transactionOf]; simpa using eq_comm
    | b :: d :: ds =>
      cases hb : b.msb with
      | true => rw [transactionOf_read_error_iff hb]; simp [hb]
      | false => rw [transactionOf_write_error_iff hb]; simp [hb]

/-! ### What no step changes, and what only grows (spec/20_memory.md R48) -/

@[simp] theorem pollTest_cfg (b : Byte) (s : State) : (pollTest b s).cfg = s.cfg := by
  rcases pollTest_cases b s with ⟨-, he⟩ | ⟨-, -, he⟩ | ⟨-, -, he⟩ <;> simp [he]

@[simp] theorem pollTest_hist (b : Byte) (s : State) : (pollTest b s).hist = s.hist := by
  rcases pollTest_cases b s with ⟨-, he⟩ | ⟨-, -, he⟩ | ⟨-, -, he⟩ <;> simp [he]

/-- The status byte is answered with one response at most, `InitTimeout` (spec/41_measurement_controller.md R133). -/
theorem pollTest_responses (b : Byte) (s : State) :
    (pollTest b s).responses = s.responses ∨ ∃ r, (pollTest b s).responses = s.responses ++ [r] := by
  rcases pollTest_cases b s with ⟨-, he⟩ | ⟨-, -, he⟩ | ⟨-, -, he⟩ <;> rw [he]
  · exact .inl rfl
  · exact .inl rfl
  · exact .inr ⟨_, rfl⟩

theorem cfg_of_phaseStep {s t : State} (hp : PhaseStep s t) : t.cfg = s.cfg := by
  cases hp with
  | pollRd => exact pollTest_cfg ..
  | _ => rfl

/-- A phase appends the events of its transaction or its `Delay`, or none. -/
theorem hist_of_phaseStep {s t : State} (hp : PhaseStep s t) : ∃ es, t.hist = s.hist ++ es := by
  cases hp with
  | wait | refuse | init | force | cached | fetch | calDecode | rawDecode | compT | compP | compH => exact ⟨[], (List.append_nil _).symm⟩
  | pollRd => exact ⟨_, pollTest_hist ..⟩
  | resetWr | pollWait | pollWaitHangs | cal1Rd | cal2Rd | cfgHumWr | cfgMeasWr | forceRd | forceWr | dataRd | failed | cutOff | hangs =>
    exact ⟨_, rfl⟩

/-- A phase gives one response or none. -/
theorem responses_of_phaseStep {s t : State} (hp : PhaseStep s t) :
    t.responses = s.responses ∨ ∃ r, t.responses = s.responses ++ [r] := by
  cases hp with
  | wait | init | force | fetch | resetWr | pollWait | pollWaitHangs | cal1Rd | cal2Rd | calDecode | cfgHumWr | forceRd | dataRd | rawDecode
  | compT | compP | cutOff | hangs => exact .inl rfl
  | refuse | cached | cfgMeasWr | forceWr | compH | failed => exact .inr ⟨_, rfl⟩
  | pollRd => exact pollTest_responses ..

theorem cfg_of_step {s t : State} (h : step s = .next t) : t.cfg = s.cfg := by
  cases (stepEffect_of_step h).2 with
  | rst | stuck | placedDone | placedFails | placedReset | placedHangs => rfl
  | phase hr hp => exact cfg_of_phaseStep hp

theorem hist_of_step {s t : State} (h : step s = .next t) : ∃ es, t.hist = s.hist ++ es := by
  cases (stepEffect_of_step h).2 with
  | rst =>
    rw [hardwareReset_hist]
    cases s.csn with
    | true => exact ⟨[], (List.append_nil _).symm⟩
    | false => exact ⟨_, rfl⟩
  | stuck => exact ⟨[], (List.append_nil _).symm⟩
  | placedDone | placedFails | placedReset | placedHangs => exact ⟨_, rfl⟩
  | phase hr hp => exact hist_of_phaseStep hp

/-- Only a phase responds: a reset abandons the command (spec/70_reset_and_hazards.md R250), a placed transaction has none (log 7). -/
theorem responses_of_step {s t : State} (h : step s = .next t) :
    t.responses = s.responses ∨ ∃ r, t.responses = s.responses ++ [r] := by
  cases (stepEffect_of_step h).2 with
  | rst | stuck | placedDone | placedFails | placedReset | placedHangs => exact .inl rfl
  | phase hr hp => exact responses_of_phaseStep hp

/-- Settles O50: each record after a step is the one before it with what the step added. -/
theorem recordsOnlyGrow : Obligations.RecordsOnlyGrow := by
  intro s t h
  obtain ⟨es, hes⟩ := hist_of_step h
  have hhist : s.hist <+: t.hist := ⟨es, hes.symm⟩
  refine ⟨cfg_of_step h, hhist, ?_⟩
  rcases responses_of_step h with hr | ⟨r, hr⟩ <;> simp [hr]

/-! ### Where a step stops (spec/20_memory.md R41) -/

/-- The configurations the model refuses: a burst past 0xFF (spec/20_memory.md R41), or no status read allowed (spec/00_scope.md R6). -/
theorem config_ok_eq_false_iff (cfg : Config) : cfg.ok = false ↔
    0xFF < cfg.aCal1.toNat + 25 ∨ 0xFF < cfg.aCal2.toNat + 7 ∨ 0xFF < cfg.aData.toNat + 7 ∨ cfg.pollLimit = some 0 := by
  rw [← Bool.not_eq_true]
  simp only [Config.ok, Config.cal1Len, Config.cal2Len, Config.dataLen, Bool.and_eq_true, decide_eq_true_eq, bne_iff_ne]
  by_cases hl : cfg.pollLimit = some 0
  · simp [hl]
  · simp only [hl, ne_eq, not_false_eq_true, and_true, or_false]; omega

theorem step_of_not_ok {s : State} (h : s.cfg.ok = false) : step s = .refused .configuration := if_pos h

/-- Dispatch answers every command code (spec/41_measurement_controller.md R130). -/
theorem dispatch_next (c : BitVec 3) (s : State) : ∃ t, dispatch c s = .next t := by
  unfold dispatch
  split <;> exact ⟨_, rfl⟩

/-- No phase refuses or faults (spec/60_exceptions.md R218). -/
theorem exec_decodePhase_next (s : State) : ∃ t, exec (decodePhase s.seq.code) s = .next t := by
  cases s.seq with
  | idle =>
    show ∃ t, execSeqIdle s = .next t
    unfold execSeqIdle
    split
    · exact ⟨_, rfl⟩
    · exact dispatch_next ..
  | pollWait =>
    show ∃ t, execSeqPollWait s = .next t
    unfold execSeqPollWait
    split <;> exact ⟨_, rfl⟩
  | _ => exact ⟨_, rfl⟩

/-- In a configuration the model takes, a step answers a next state. -/
theorem safe_of_ok {s : State} (hok : s.cfg.ok = true) : Safe s := by
  rw [Safe, step, if_neg (by simp [hok])]
  split
  · exact ⟨_, rfl⟩
  · split
    · exact ⟨_, rfl⟩
    · split
      · exact ⟨_, exec_decodeTransaction _ { s with busReq := none }⟩
      · exact exec_decodePhase_next s

/-- Settles O8: a step refuses where the configuration is refused, and everywhere else it answers a next state. -/
theorem stepStops : Obligations.StepStops := by
  refine ⟨fun s hbad => ?_, fun s r h => ?_, fun s hok hrst hhung => ?_⟩
  · exact step_of_not_ok ((config_ok_eq_false_iff s.cfg).mpr hbad)
  · cases hok : s.cfg.ok with
    | false =>
      exact ⟨Host.Outcome.refused.inj (h.symm.trans (step_of_not_ok hok)), (config_ok_eq_false_iff s.cfg).mp hok⟩
    | true =>
      obtain ⟨t, ht⟩ := safe_of_ok hok
      cases h.symm.trans ht
  · simp [step, hok, hrst, hhung]

end Sys2Proof.Safety

/-! PROOFS. The statements of `30_encoding.md`: the decoder and the encoder are inverse to each other in all three formats (R70 to R75, R88),
the bytes format A sends (R74 to R80), the status codes (R90), what a response carries (R89), and the reserved codes (R73). -/

namespace Sys2Proof.Safety

open Machine

/-! ### Reads and writes of format A, named and generic (spec/30_encoding.md R75) -/

/-- What a named read is found by: its address and its length. -/
def readKey (r : BitVec 7 × Nat × Instr) : BitVec 7 × Nat := (r.1, r.2.1)

theorem readKeys_eq_map (cfg : Config) : readKeys cfg = (namedReads cfg).map readKey := rfl

theorem mem_readKeys_of_named {cfg : Config} {a : BitVec 7} {n : Nat} {i : Instr} (hi : (a, n, i) ∈ namedReads cfg) :
    (a, n) ∈ readKeys cfg := List.mem_map_of_mem (f := readKey) hi

/-- The one inversion lemma of decoding a read: it is a named read with that address and length, or none has them and it is the
generic read. -/
theorem decodeRead_cases (cfg : Config) (a : BitVec 7) (n : Nat) :
    (a, n, decodeRead cfg a n) ∈ namedReads cfg ∨ ((a, n) ∉ readKeys cfg ∧ decodeRead cfg a n = .busRead a n) := by
  unfold decodeRead
  cases hf : (namedReads cfg).find? (fun r => r.1 == a && r.2.1 == n) with
  | some r =>
    have hkey := List.find?_some hf
    simp only [Bool.and_eq_true, beq_iff_eq] at hkey
    obtain ⟨rfl, rfl⟩ := hkey
    exact .inl (List.mem_of_find?_eq_some hf)
  | none =>
    refine .inr ⟨fun hmem => ?_, rfl⟩
    rw [readKeys_eq_map, List.mem_map] at hmem
    obtain ⟨r, hr, hkey⟩ := hmem
    cases hkey
    simpa using List.find?_eq_none.mp hf r hr

/-- Where no two named reads share address and length, each is read back from its own. -/
theorem decodeRead_of_named {cfg : Config} (hd : (readKeys cfg).Nodup) {a : BitVec 7} {n : Nat} {i : Instr}
    (hi : (a, n, i) ∈ namedReads cfg) : decodeRead cfg a n = i := by
  rw [readKeys_eq_map] at hd
  rcases decodeRead_cases cfg a n with hmem | ⟨hnot, -⟩
  · have heq : (a, n, decodeRead cfg a n) = (a, n, i) := List.inj_on_of_nodup_map hd hmem hi rfl
    simpa using heq
  · exact absurd (mem_readKeys_of_named hi) hnot

/-- An address and a length that name no row are the generic read (spec/20_memory.md R49). -/
theorem decodeRead_of_unnamed {cfg : Config} {a : BitVec 7} {n : Nat} (hn : (a, n) ∉ readKeys cfg) :
    decodeRead cfg a n = .busRead a n := by
  rcases decodeRead_cases cfg a n with hmem | ⟨-, he⟩
  · exact absurd (mem_readKeys_of_named hmem) hn
  · exact he

/-- The frame of a read decodes as a read of its address and length. -/
theorem decode_readFrame (cfg : Config) (a : BitVec 7) {n : Nat} (hn : 1 ≤ n) :
    decode cfg (.frame (readFrame a n)) = .ok (decodeRead cfg a n) := by
  obtain ⟨more, rfl⟩ := Nat.exists_eq_add_of_le' hn
  exact decode_sentBytes cfg (.read a more)

/-- The frame of a write decodes as a write of its address and value. -/
theorem decode_writeFrame (cfg : Config) (a : BitVec 7) (v : Byte) :
    decode cfg (.frame (writeFrame a v)) = .ok (decodeWrite cfg a v) :=
  decode_sentBytes cfg (.write a v)

theorem decode_of_namedRead {cfg : Config} (hd : (readKeys cfg).Nodup) {a : BitVec 7} {n : Nat} {i : Instr}
    (hi : (a, n, i) ∈ namedReads cfg) (hn : 1 ≤ n) : decode cfg (.frame (readFrame a n)) = .ok i := by
  rw [decode_readFrame cfg a hn, decodeRead_of_named hd hi]

/-- The addresses of the named writes differ, where they are distinct in the list. -/
theorem writeAddrs_ne {cfg : Config} (hd : (writeAddrs cfg).Nodup) :
    wireAddr cfg.aCtrlHum ≠ wireAddr cfg.aReset ∧ wireAddr cfg.aCtrlMeas ≠ wireAddr cfg.aReset ∧
      wireAddr cfg.aCtrlMeas ≠ wireAddr cfg.aCtrlHum := by
  simpa [writeAddrs, eq_comm, and_assoc] using hd

theorem decodeWrite_reset (cfg : Config) (v : Byte) : decodeWrite cfg (wireAddr cfg.aReset) v = .busWrReset v := if_pos rfl

theorem decodeWrite_ctrlHum {cfg : Config} (hd : (writeAddrs cfg).Nodup) (v : Byte) :
    decodeWrite cfg (wireAddr cfg.aCtrlHum) v = .busWrCtrlHum v := by
  obtain ⟨hreset, -, -⟩ := writeAddrs_ne hd
  rw [decodeWrite, if_neg hreset, if_pos rfl]

theorem decodeWrite_ctrlMeas {cfg : Config} (hd : (writeAddrs cfg).Nodup) (v : Byte) :
    decodeWrite cfg (wireAddr cfg.aCtrlMeas) v = .busWrCtrlMeas v := by
  obtain ⟨-, hreset, hhum⟩ := writeAddrs_ne hd
  rw [decodeWrite, if_neg hreset, if_neg hhum, if_pos rfl]

/-- An address that names no row is the generic write (spec/20_memory.md R50). -/
theorem decodeWrite_of_unnamed {cfg : Config} {a : BitVec 7} (hn : a ∉ writeAddrs cfg) (v : Byte) :
    decodeWrite cfg a v = .busWrite a v := by
  simp only [writeAddrs, List.mem_cons, List.not_mem_nil, or_false, not_or] at hn
  obtain ⟨hreset, hhum, hmeas⟩ := hn
  rw [decodeWrite, if_neg hreset, if_neg hhum, if_neg hmeas]

/-! ### Decode of encode -/

/-- Settles O2: a named row is found by its own key, as no other row has it; the key of a generic transaction is no row's. -/
theorem decodeOfEncode : Obligations.DecodeOfEncode := by
  intro cfg i hdistinct hwf
  simp only [Config.addrsDistinct, Bool.and_eq_true, decide_eq_true_eq] at hdistinct
  obtain ⟨hreads, hwrites⟩ := hdistinct
  cases i with
  | busRead a n =>
    simp only [wellFormed, Bool.and_eq_true, decide_eq_true_eq, Bool.not_eq_true', List.contains_eq_mem, decide_eq_false_iff_not] at hwf
    obtain ⟨hn, hunnamed⟩ := hwf
    rw [encode, decode_readFrame cfg a hn, decodeRead_of_unnamed hunnamed]
  | busWrite a v =>
    have hunnamed : a ∉ writeAddrs cfg := by simpa [wellFormed] using hwf
    rw [encode, decode_writeFrame, decodeWrite_of_unnamed hunnamed]
  | busRdStatus | busRdCal1 | busRdCal2 | busRdCtrlMeas | busRdData =>
    exact decode_of_namedRead hreads (by simp [namedReads]) (by decide)
  | busWrReset v => rw [encode, decode_writeFrame, decodeWrite_reset]
  | busWrCtrlHum v => rw [encode, decode_writeFrame, decodeWrite_ctrlHum hwrites]
  | busWrCtrlMeas v => rw [encode, decode_writeFrame, decodeWrite_ctrlMeas hwrites]
  | init | force | getT | getP | getH | reserved000 | reserved011 | reserved111
  | seqIdle | seqResetWr | seqPollRd | seqPollWait | seqCal1Rd | seqCal2Rd | seqCalDecode | seqCfgHumWr
  | seqCfgMeasWr | seqForceRd | seqForceWr | seqDataRd | seqRawDecode | seqCompT | seqCompP | seqCompH => rfl

/-! ### Encode of decode -/

theorem encode_decodeCommand (cfg : Config) (c : BitVec 3) : encode cfg (decodeCommand c) = .command c := by
  unfold decodeCommand
  split <;> rfl

theorem encode_decodePhase (cfg : Config) (c : BitVec 4) : encode cfg (decodePhase c) = .phase c := by
  have hcode (p : Phase) : encode cfg (decodePhase p.code) = .phase p.code := by cases p <;> rfl
  simpa using hcode (Phase.ofCode c)

/-- A named read is encoded by its address and length. -/
theorem encode_namedRead {cfg : Config} {a : BitVec 7} {n : Nat} {i : Instr} (hi : (a, n, i) ∈ namedReads cfg) :
    encode cfg i = .frame (readFrame a n) := by
  simp only [namedReads, List.mem_cons, Prod.mk.injEq, List.not_mem_nil, or_false] at hi
  rcases hi with ⟨rfl, rfl, rfl⟩ | ⟨rfl, rfl, rfl⟩ | ⟨rfl, rfl, rfl⟩ | ⟨rfl, rfl, rfl⟩ | ⟨rfl, rfl, rfl⟩ <;> rfl

/-- Whichever row a read is decoded as, it is encoded as the read it was. -/
theorem encode_decodeRead (cfg : Config) (a : BitVec 7) (n : Nat) : encode cfg (decodeRead cfg a n) = .frame (readFrame a n) := by
  rcases decodeRead_cases cfg a n with hmem | ⟨-, he⟩
  · exact encode_namedRead hmem
  · rw [he, encode]

/-- Whichever row a write is decoded as, it is encoded as the write it was. -/
theorem encode_decodeWrite (cfg : Config) (a : BitVec 7) (v : Byte) : encode cfg (decodeWrite cfg a v) = .frame (writeFrame a v) := by
  unfold decodeWrite
  split_ifs with hreset hhum hmeas
  · rw [hreset, encode]
  · rw [hhum, encode]
  · rw [hmeas, encode]
  · rw [encode]

theorem encode_decodeTransaction (cfg : Config) (tr : Transaction) : encode cfg (decodeTransaction cfg tr) = .frame (sentBytes tr) := by
  cases tr with
  | read a more => exact encode_decodeRead cfg a (more + 1)
  | write a v => exact encode_decodeWrite cfg a v

/-- A byte is the address byte of its direction and its wire address (spec/30_encoding.md R74). -/
theorem addressByte_msb_wireAddr (b : Byte) : addressByte b.msb (wireAddr b) = b := by
  revert b; decide

/-- Bytes read as a transaction are the bytes it sends. -/
theorem sentBytes_of_transactionOf {sent : List Byte} {tr : Transaction} (h : transactionOf sent = .ok tr) : sentBytes tr = sent := by
  match sent with
  | [] => cases h
  | [b] => cases h
  | b :: d :: ds =>
    have haddr := addressByte_msb_wireAddr b
    cases hb : b.msb with
    | true =>
      rw [hb] at haddr
      rw [transactionOf_read hb] at h
      split_ifs at h with hall
      · cases h
        have hdummy : d :: ds = List.replicate (ds.length + 1) Config.dummy :=
          List.eq_replicate_iff.mpr ⟨rfl, by simpa using hall⟩
        rw [sentBytes, readFrame, haddr, ← hdummy]
    | false =>
      rw [hb] at haddr
      cases ds with
      | nil =>
        obtain rfl : Transaction.write (wireAddr b) d = tr := by simpa [transactionOf, hb] using h
        rw [sentBytes, writeFrame, haddr]
      | cons d' ds => simp [transactionOf, hb] at h

/-- Settles O3: by the format; a byte list the decoder takes is what a transaction sends. -/
theorem encodeOfDecode : Obligations.EncodeOfDecode := by
  intro cfg code i h
  cases code with
  | command c => cases h; exact encode_decodeCommand cfg c
  | phase c => cases h; exact encode_decodePhase cfg c
  | frame sent =>
    rw [decode, decodeFrame] at h
    cases htr : transactionOf sent with
    | error why => rw [htr] at h; cases h
    | ok tr =>
      rw [htr] at h
      cases h
      rw [encode_decodeTransaction, sentBytes_of_transactionOf htr]

/-! ### Words of the encoding tables -/

/-- Settles O1: each word is a closed term, which the decoder evaluates. -/
theorem encodedWordsDecode : Obligations.EncodedWordsDecode := by
  unfold Obligations.EncodedWordsDecode
  decide

/-! ### The bytes format A sends (spec/30_encoding.md R74 to R80) -/

/-- A concatenation as a number. -/
theorem toNat_append_eq_add {m n : Nat} (x : BitVec m) (y : BitVec n) : (x ++ y).toNat = x.toNat * 2 ^ n + y.toNat := by
  rw [BitVec.toNat_append, ← Nat.shiftLeft_add_eq_or_of_lt y.isLt, Nat.shiftLeft_eq]

theorem addressByte_read (a : Byte) : addressByte true (wireAddr a) = 0x80#8 ||| a := by
  revert a; decide

theorem addressByte_write (a : Byte) : addressByte false (wireAddr a) = a &&& 0x7F#8 := by
  revert a; decide

theorem humByte_toNat (cfg : Config) : (humByte cfg).toNat = cfg.osrsH.toNat := by
  rw [humByte, toNat_append_eq_add]; simp

theorem sleepByte_toNat (cfg : Config) : (sleepByte cfg).toNat = cfg.osrsT.toNat * 32 + cfg.osrsP.toNat * 4 := by
  simp only [sleepByte, toNat_append_eq_add, Config.modeSleep, BitVec.toNat_ofNat]
  omega

theorem forcedByte_eq (m : Byte) : forcedByte m = (m &&& 0xFC#8) ||| 0x01#8 := by
  revert m; decide

/-- Settles O5: the address byte in both directions, and the payload of each write the engine makes. -/
theorem addressAndPayloadBytes : Obligations.AddressAndPayloadBytes :=
  ⟨fun a => ⟨addressByte_read a, addressByte_write a⟩, fun cfg => ⟨humByte_toNat cfg, sleepByte_toNat cfg⟩, forcedByte_eq⟩

/-- A phase whose transaction ends as the bus says sends the transaction's bytes, when what it does with the bytes received records
no event. -/
theorem sends_of_busPhase {i : Instr} {s : State} {sent : List Byte} {d : During} {commit : List Byte → State → State}
    {p : BusResult × State} (hi : exec i s = .next (busPhase d commit p)) (hc : ∀ bytes u, (commit bytes u).hist = u.hist)
    (hdone : ∀ rx, Delivers s sent rx → ∃ bytes, p = (.done bytes, afterDone s sent rx))
    (hfail : ∀ rx, FailsAfter s sent rx → p = (.failed, afterFailure s sent rx)) : Sends i s sent := by
  refine ⟨fun rx h => ⟨_, hi, ?_⟩, fun rx h => ⟨_, hi, ?_⟩⟩
  · obtain ⟨bytes, rfl⟩ := hdone rx h
    exact hc bytes _
  · rw [hfail rx h]; rfl

theorem sends_of_busRead {i : Instr} {s : State} {a : BitVec 7} {n : Nat} {d : During} {commit : List Byte → State → State}
    (hi : exec i s = .next (busPhase d commit (busRead a n s))) (hc : ∀ bytes u, (commit bytes u).hist = u.hist) :
    Sends i s (readFrame a n) :=
  sends_of_busPhase hi hc (fun _ h => ⟨_, busRead_done (transact_of_delivers h)⟩) fun _ h => busRead_of_fails h

theorem sends_of_busWrite {i : Instr} {s : State} {a : BitVec 7} {v : Byte} {d : During} {commit : List Byte → State → State}
    (hi : exec i s = .next (busPhase d commit (busWrite a v s))) (hc : ∀ bytes u, (commit bytes u).hist = u.hist) :
    Sends i s (writeFrame a v) :=
  sends_of_busPhase hi hc (fun _ h => ⟨_, busWrite_of_delivers h⟩) fun _ h => busWrite_of_fails h

/-- Every bus phase sends its frame (spec/30_encoding.md R75). -/
theorem sends_of_phaseFrame {s : State} {i : Instr} {sent : List Byte} (h : phaseFrame s i = some sent) : Sends i s sent := by
  cases i with
  | seqResetWr | seqCfgHumWr | seqCfgMeasWr | seqForceWr => cases h; exact sends_of_busWrite rfl fun _ _ => rfl
  | seqCal1Rd | seqCal2Rd | seqForceRd | seqDataRd => cases h; exact sends_of_busRead rfl fun _ _ => rfl
  | seqPollRd => cases h; exact sends_of_busRead rfl fun _ u => pollTest_hist _ u
  | _ => cases h

/-- Settles O6: each bus phase sends its frame, which with the default parameters is the row of the table. -/
theorem defaultTransactionTable : Obligations.DefaultTransactionTable := by
  intro s hcfg
  refine ⟨?_, ?_, ?_, ?_, ?_, ?_, ?_, ?forceWr, ?_⟩
  case forceWr => exact sends_of_phaseFrame (by rw [phaseFrame, hcfg, forcedByte_eq]; rfl)
  all_goals exact sends_of_phaseFrame (by rw [phaseFrame, hcfg]; rfl)

/-! ### Status codes and responses (spec/30_encoding.md R89, R90) -/

/-- The bit of an error is one below its code. -/
theorem toNat_code_error (e : Error) : (Status.error e).code.toNat = e.bit + 1 := by
  cases e <;> rfl

theorem toNat_code_le (st : Status) : st.code.toNat ≤ 4 := by
  cases st with
  | ok => decide
  | error e => rw [toNat_code_error]; cases e <;> decide

/-- Logging an error sets its bit and keeps the others (spec/10_state.md R24). -/
theorem logError_getLsbD (errlog : BitVec 4) (e : Error) (k : Nat) :
    (logError errlog e).getLsbD k = (errlog.getLsbD k || decide (k = e.bit)) := by
  have hbit : e.bit < 4 := by cases e <;> decide
  rw [logError, ← BitVec.twoPow_eq, BitVec.getLsbD_or, BitVec.getLsbD_twoPow]
  simp [hbit, eq_comm]

/-- Settles O43: the codes by evaluation, the bits because an error's bit is one below its code. -/
theorem statusCodesAndErrorBits : Obligations.StatusCodesAndErrorBits := by
  refine ⟨rfl, rfl, rfl, rfl, rfl, toNat_code_le, fun e errlog k _ => ?_⟩
  rw [logError_getLsbD, toNat_code_error]
  simp

/-- A command code of `GET_T`, `GET_P` or `GET_H` (spec/30_encoding.md R72). -/
def IsAccessor (c : BitVec 3) : Prop := c = 0b100#3 ∨ c = 0b101#3 ∨ c = 0b110#3

/-- What R89 asks of the response `r` given with `c` in `CMDREG`. -/
def DataAllowed (r : Response) (c : BitVec 3) : Prop := r.data ≠ 0 → r.status = .ok ∧ IsAccessor c

theorem dataAllowed_of_eq_zero {r : Response} (hr : r.data = 0) (c : BitVec 3) : DataAllowed r c := fun hne => absurd hr hne

/-- Where nothing was answered there is no response to speak of. -/
theorem dataAllowed_of_no_response {s t : State} {r : Response} (hs : t.responses = s.responses)
    (h : t.responses = s.responses ++ [r]) (c : BitVec 3) : DataAllowed r c := by
  simp [hs] at h

/-- The response given is the one spoken of. -/
theorem dataAllowed_of_response {s t : State} {r r' : Response} {c : BitVec 3} (hr' : DataAllowed r' c)
    (ht : t.responses = s.responses ++ [r']) (h : t.responses = s.responses ++ [r]) : DataAllowed r c := by
  obtain rfl : r' = r := by simpa [ht] using h
  exact hr'

/-- An error response carries 0 (spec/60_exceptions.md R218). -/
theorem dataAllowed_raise {s u : State} (hu : u.responses = s.responses) {e : Error} {d : During} {r : Response}
    (h : (raise e d u).responses = s.responses ++ [r]) (c : BitVec 3) : DataAllowed r c :=
  dataAllowed_of_response (dataAllowed_of_eq_zero rfl c) (by rw [raise_responses, hu]) h

/-- The word `COMP_H` answers with: 0 for a command that is no accessor (log 14). -/
theorem dataAllowed_accessorData (s : State) : DataAllowed { status := .ok, data := accessorData s } s.cmdreg := by
  by_cases ha : IsAccessor s.cmdreg
  · exact fun _ => ⟨rfl, ha⟩
  · simp only [IsAccessor, not_or] at ha
    obtain ⟨hT, hP, hH⟩ := ha
    exact dataAllowed_of_eq_zero (by simp only [accessorData, if_neg hT, if_neg hP, if_neg hH]) _

theorem dataAllowed_of_phaseStep {s t : State} {r : Response} (hp : PhaseStep s t) (h : t.responses = s.responses ++ [r]) :
    DataAllowed r t.cmdreg := by
  cases hp with
  | wait | init | force | fetch | resetWr | pollWait | pollWaitHangs | cal1Rd | cal2Rd | calDecode | cfgHumWr | forceRd | dataRd | rawDecode
  | compT | compP | cutOff | hangs => exact dataAllowed_of_no_response rfl h _
  | refuse | failed => exact dataAllowed_raise rfl h _
  | pollRd hq hd =>
    rcases pollTest_cases _ (afterDone s _ _) with ⟨-, he⟩ | ⟨-, -, he⟩ | ⟨-, -, he⟩ <;> rw [he] at h ⊢
    · exact dataAllowed_of_no_response rfl h _
    · exact dataAllowed_of_no_response rfl h _
    · exact dataAllowed_raise rfl h _
  | cfgMeasWr | forceWr => exact dataAllowed_of_response (dataAllowed_of_eq_zero rfl _) rfl h
  | cached hq hc ha hs => exact dataAllowed_of_response (fun _ => ⟨rfl, ha⟩) rfl h
  | compH hq => exact dataAllowed_of_response (dataAllowed_accessorData { s with outH := compOutH s.rawH s.tfine s.cal }) rfl h

/-- Settles O44: only a phase responds, and its response is an error's, `OK` with 0, or an accessor's. -/
theorem dataOnlyFromAccessors : Obligations.DataOnlyFromAccessors := by
  intro s t r hstep h
  cases (stepEffect_of_step hstep).2 with
  | rst | stuck | placedDone | placedFails | placedReset | placedHangs => exact dataAllowed_of_no_response rfl h _
  | phase hr hp => exact dataAllowed_of_phaseStep hp h

/-! ### The reserved codes (spec/30_encoding.md R73) -/

theorem acceptReserved_eq (c : BitVec 3) (s : State) :
    acceptReserved c s = endedBy .refused 0b1000#4 { s with cmdreg := c } := rfl

/-- Settles O21: each reserved code is accepted as one, in every state. -/
theorem reservedCodesRefused : Obligations.ReservedCodesRefused := by
  intro s
  refine ⟨?_, ?_, ?_⟩ <;> exact congrArg Host.Outcome.next (acceptReserved_eq _ s)

end Sys2Proof.Safety

/-! PROOFS. The statements of `40_calibration_decoder.md`: the 18 coefficients as numbers (R101 to R118), and the two buffered bytes that
influence none (R119). The first part reads a bit pattern as a number (spec/30_encoding.md R81 to R84), the second applies it to `CAL_DECODE`. -/

namespace Sys2Proof.Safety

open Machine

/-! ### Bit patterns as numbers (spec/00_scope.md R8, spec/30_encoding.md R81 to R84) -/

/-- The signed reading of a register is `sext_N` of its unsigned reading, at every width. -/
theorem toInt_eq_sext {n : Nat} (x : BitVec n) : x.toInt = sext n x.toNat := by
  cases n with
  | zero => simp [sext, BitVec.of_length_zero]
  | succ n =>
    have hhalf : 2 * x.toNat < 2 ^ (n + 1) ↔ x.toNat < 2 ^ n := by omega
    simp [BitVec.toInt_eq_toNat_cond, sext, hhalf]

theorem pair_toNat (lo hi : Byte) : (pair lo hi).toNat = le16 lo hi := toNat_append_eq_add hi lo

theorem pair_toInt (lo hi : Byte) : (pair lo hi).toInt = sext 16 (le16 lo hi) := by
  rw [toInt_eq_sext, pair_toNat]

/-- Widening to 16 bits keeps the number a 12-bit pattern stands for. -/
theorem sext12_toInt (p : BitVec 12) : (sext12 p).toInt = sext 12 p.toNat := by
  rw [sext12, BitVec.toInt_signExtend_of_le (by decide), toInt_eq_sext]

/-- `H4` takes the low half of the shared byte. -/
theorem h4Pattern_toNat (b3 b4 : Byte) : (h4Pattern b3 b4).toNat = b3.toNat * 16 + b4.toNat % 16 := by
  rw [h4Pattern, toNat_append_eq_add, BitVec.extractLsb'_toNat, Nat.shiftRight_zero]
  rfl

/-- `H5` takes the high half of the shared byte. -/
theorem h5Pattern_toNat (b5 b4 : Byte) : (h5Pattern b5 b4).toNat = b5.toNat * 16 + b4.toNat / 16 := by
  have hhigh : b4.toNat / 2 ^ 4 < 2 ^ 4 := Nat.div_lt_of_lt_mul b4.isLt
  rw [h5Pattern, toNat_append_eq_add, BitVec.extractLsb'_toNat, Nat.shiftRight_eq_div_pow, Nat.mod_eq_of_lt hhigh]
  rfl

/-! ### What `CAL_DECODE` writes -/

theorem exec_seqCalDecode (s : State) :
    exec .seqCalDecode s = .next { s with cal := decodeCal s.calbuf1 s.calbuf2, seq := .cfgHumWr } := rfl

/-- Settles O29: each coefficient is one little-endian pair, `T1` and `P1` read unsigned and the others signed. -/
theorem temperatureAndPressureCoefficients : Obligations.TemperatureAndPressureCoefficients := fun s =>
  ⟨_, exec_seqCalDecode s,
    pair_toNat _ _, pair_toInt _ _, pair_toInt _ _,
    pair_toNat _ _, pair_toInt _ _, pair_toInt _ _, pair_toInt _ _, pair_toInt _ _, pair_toInt _ _, pair_toInt _ _, pair_toInt _ _,
    pair_toInt _ _⟩

theorem decodeH4_toInt (b : Vector Byte 8) : (decodeH4 b).toInt = sext 12 (b[3].toNat * 16 + b[4].toNat % 16) := by
  rw [decodeH4, sext12_toInt, h4Pattern_toNat]

theorem decodeH5_toInt (b : Vector Byte 8) : (decodeH5 b).toInt = sext 12 (b[5].toNat * 16 + b[4].toNat / 16) := by
  rw [decodeH5, sext12_toInt, h5Pattern_toNat]

/-- Settles O30: `H1` and `H3` are bytes, `H2` a signed pair, `H4` and `H5` share `CALBUF2[4]`, `H6` is a signed byte. -/
theorem humidityCoefficients : Obligations.HumidityCoefficients := fun s =>
  ⟨_, exec_seqCalDecode s, rfl, pair_toInt _ _, rfl, decodeH4_toInt _, decodeH5_toInt _, toInt_eq_sext _⟩

/-! ### What the coefficients depend on (spec/40_calibration_decoder.md R119) -/

/-- Buffers that agree outside `CALBUF1[24]` and `CALBUF2[7]` decode to the same coefficients: no coefficient reads either byte. -/
theorem decodeCal_congr {b1 b1' : Vector Byte 26} {b2 b2' : Vector Byte 8} (h1 : ∀ (i : Nat) (_ : i < 26), i ≠ 24 → b1[i] = b1'[i])
    (h2 : ∀ (i : Nat) (_ : i < 8), i ≠ 7 → b2[i] = b2'[i]) : decodeCal b1 b2 = decodeCal b1' b2' := by
  simp only [decodeCal, decodeT1, decodeT2, decodeT3, decodeP1, decodeP2, decodeP3, decodeP4, decodeP5, decodeP6, decodeP7, decodeP8,
    decodeP9, decodeH1, decodeH2, decodeH3, decodeH4, decodeH5, decodeH6, ne_eq, Nat.reduceEqDiff, not_false_eq_true, h1, h2]

theorem decodeCal_set_unused (b1 : Vector Byte 26) (b2 : Vector Byte 8) (x y : Byte) :
    decodeCal (b1.set 24 x) (b2.set 7 y) = decodeCal b1 b2 :=
  decodeCal_congr (fun _ _ hi => Vector.getElem_set_ne _ _ hi.symm) (fun _ _ hi => Vector.getElem_set_ne _ _ hi.symm)

/-- Settles O31: the two bytes are the ones `decode` does not read. -/
theorem unusedCalibrationBytes : Obligations.UnusedCalibrationBytes := by
  intro s x y
  refine ⟨_, exec_seqCalDecode s, ?_⟩
  rw [exec_seqCalDecode, decodeCal_set_unused]

end Sys2Proof.Safety

/-! PROOFS. The statements of `41_measurement_controller.md`: dispatch (R130), the rule of each phase (R132 to R153), the tables of `SEQ` and
`SSTATE` (R154, R161), and whole commands: the runs of `INIT`, `FORCE` and the accessors (R155, R160), and their agreement with the big
steps. A run cites the rules of its phases; a table is a case analysis over what a step can do. -/

namespace Sys2Proof.Safety

open Machine

/-! ### Dispatch (spec/41_measurement_controller.md R130) -/

theorem exec_decodeCommand (c : BitVec 3) (s : State) : exec (decodeCommand c) s = dispatch c s := by
  unfold decodeCommand dispatch
  split <;> rfl

theorem exec_seqIdle_of_nil {s : State} (h : s.cmds = []) : exec .seqIdle s = .next s := by
  rw [exec, execSeqIdle, h]

theorem exec_seqIdle_of_cons {s : State} {c : BitVec 3} {cs : List (BitVec 3)} (h : s.cmds = c :: cs) :
    exec .seqIdle s = dispatch c { s with cmds := cs } := by
  rw [exec, execSeqIdle, h]

/-- Settles O17: `IDLE` looks at the host's list, and dispatch, the meaning of the command's row, answers every code. -/
theorem idleTakesCommand : Obligations.IdleTakesCommand := by
  refine ⟨fun s => exec_seqIdle_of_nil, fun s c cs h => ?_⟩
  rw [exec_seqIdle_of_cons h]
  exact ⟨(exec_decodeCommand c _).symm, dispatch_next c _⟩

theorem acceptInit_of_reset {s : State} (h : s.sstate = .reset) : acceptInit s = { s with cmdreg := 0b001#3, seq := .resetWr } :=
  if_pos h

theorem acceptInit_of_ne_reset {s : State} (h : s.sstate ≠ .reset) :
    acceptInit s = raise .refused .dispatch { s with cmdreg := 0b001#3 } :=
  if_neg h

/-- Settles O18: `INIT` is accepted in `Reset` alone. -/
theorem initDispatch : Obligations.InitDispatch := fun _ =>
  ⟨fun h => congrArg Host.Outcome.next (acceptInit_of_reset h), fun h => congrArg Host.Outcome.next (acceptInit_of_ne_reset h)⟩

/-- `CALVALID` fails in the two states without coefficients (spec/10_state.md R23). -/
theorem calvalid_eq_false {s : State} (h : s.sstate = .reset ∨ s.sstate = .failed) : s.calvalid = false := by
  rcases h with h | h <;> simp [State.calvalid, h]

theorem acceptForce_of_calvalid {s : State} (h : s.calvalid = true) :
    acceptForce s = { s with cmdreg := 0b010#3, sstate := .idle, seq := .forceRd } :=
  if_pos h

theorem acceptForce_of_not_calvalid {s : State} (h : s.calvalid = false) :
    acceptForce s = raise .notCalibrated .dispatch { s with cmdreg := 0b010#3 } :=
  if_neg (by simp [h])

/-- Settles O19: `FORCE` is accepted where `CALVALID` holds. -/
theorem forceDispatch : Obligations.ForceDispatch := fun s =>
  ⟨fun h => congrArg Host.Outcome.next (acceptForce_of_calvalid ((calvalid_iff s).mpr h)),
    fun h => congrArg Host.Outcome.next (acceptForce_of_not_calvalid (calvalid_eq_false h))⟩

theorem acceptAccessor_of_dataReady {s : State} (h : s.sstate = .dataReady) (c : BitVec 3) (out : Word) :
    acceptAccessor c out s = respond .ok out { s with cmdreg := c } := by
  simp only [acceptAccessor, h]

theorem acceptAccessor_of_stale {s : State} (h : s.sstate = .idle ∨ s.sstate = .measuring) (c : BitVec 3) (out : Word) :
    acceptAccessor c out s = { s with cmdreg := c, seq := .dataRd } := by
  rcases h with h | h <;> simp only [acceptAccessor, h]

theorem acceptAccessor_of_uncalibrated {s : State} (h : s.sstate = .reset ∨ s.sstate = .failed) (c : BitVec 3) (out : Word) :
    acceptAccessor c out s = raise .notCalibrated .dispatch { s with cmdreg := c } := by
  rcases h with h | h <;> simp only [acceptAccessor, h]

/-- Settles O20: the three accessors are accepted alike, each with its code and its cached word. -/
theorem accessorDispatch : Obligations.AccessorDispatch := by
  intro s p hp
  have haccept : exec p.1 s = .next (acceptAccessor p.2.1 p.2.2 s) := by
    simp only [List.mem_cons, List.not_mem_nil, or_false] at hp
    rcases hp with rfl | rfl | rfl <;> rfl
  rw [haccept]
  refine ⟨fun h => ?_, fun h => ?_, fun h => ?_⟩
  · rw [acceptAccessor_of_dataReady h]; rfl
  · rw [acceptAccessor_of_stale h]
  · rw [acceptAccessor_of_uncalibrated h]; rfl

/-! ### The phases that run one transaction -/

section

variable {i : Instr} {s t : State} {a : BitVec 7} {d : During} {commit : List Byte → State → State}

/-- A phase whose read completes commits the bytes after the discarded one (spec/20_memory.md R49). -/
theorem exec_read_of_delivers {n : Nat} (hi : exec i s = .next (busPhase d commit (busRead a n s))) {x : Byte} {bytes : List Byte}
    (h : Delivers s (readFrame a n) (x :: bytes)) (ht : commit bytes (afterDone s (readFrame a n) (x :: bytes)) = t) :
    exec i s = .next t := by
  rw [hi, busRead_of_delivers h, ← ht]; rfl

/-- A phase whose read fails raises `TransportFailure` (spec/20_memory.md R51). -/
theorem exec_read_of_fails {n : Nat} (hi : exec i s = .next (busPhase d commit (busRead a n s))) {rx : List Byte}
    (h : FailsAfter s (readFrame a n) rx) :
    exec i s = .next (raise .transportFailure d (afterFailure s (readFrame a n) rx)) := by
  rw [hi, busRead_of_fails h]; rfl

/-- A phase whose write completes goes on (spec/20_memory.md R50). -/
theorem exec_write_of_delivers {v : Byte} (hi : exec i s = .next (busPhase d commit (busWrite a v s))) {rx : List Byte}
    (h : Delivers s (writeFrame a v) rx) (ht : commit [] (afterDone s (writeFrame a v) rx) = t) : exec i s = .next t := by
  rw [hi, busWrite_of_delivers h, ← ht]; rfl

/-- A phase whose write fails raises `TransportFailure` (spec/20_memory.md R51). -/
theorem exec_write_of_fails {v : Byte} (hi : exec i s = .next (busPhase d commit (busWrite a v s))) {rx : List Byte}
    (h : FailsAfter s (writeFrame a v) rx) :
    exec i s = .next (raise .transportFailure d (afterFailure s (writeFrame a v) rx)) := by
  rw [hi, busWrite_of_fails h]; rfl

end

/-! ### The phases of `INIT` (spec/41_measurement_controller.md R132 to R139) -/

/-- Settles O23: one write, and on with the count cleared. -/
theorem resetWrPhase : Obligations.ResetWrPhase := fun _ =>
  ⟨fun _ h => exec_write_of_delivers rfl h rfl, fun _ h => exec_write_of_fails (d := .init) rfl h⟩

/-- A complete status read: its byte is tested (spec/41_measurement_controller.md R133). -/
theorem exec_seqPollRd_of_delivers {s : State} {x b : Byte} (h : Delivers s (readFrame (wireAddr s.cfg.aStatus) 1) [x, b]) :
    exec .seqPollRd s = .next (pollTest b (afterDone s (readFrame (wireAddr s.cfg.aStatus) 1) [x, b])) :=
  exec_read_of_delivers rfl h (by rw [toBuffer_one])

theorem pollTest_of_ready {b : Byte} (hb : b.getLsbD 0 = false) (s : State) :
    pollTest b s = { s with pollcnt := s.pollcnt + 1, seq := .cal1Rd } :=
  if_pos hb

theorem pollTest_of_busy {b : Byte} {s : State} (hb : b.getLsbD 0 = true)
    (hl : ∀ limit, s.cfg.pollLimit = some limit → s.pollcnt + 1 < limit) :
    pollTest b s = { s with pollcnt := s.pollcnt + 1, seq := .pollWait } := by
  rcases pollTest_cases b s with ⟨hready, -⟩ | ⟨-, -, he⟩ | ⟨-, ⟨limit, hlim, hle⟩, -⟩
  · exact nomatch hb.symm.trans hready
  · exact he
  · exact absurd hle (Nat.not_le.mpr (hl limit hlim))

theorem pollTest_of_bound {b : Byte} {s : State} {limit : Nat} (hb : b.getLsbD 0 = true) (hl : s.cfg.pollLimit = some limit)
    (hle : limit ≤ s.pollcnt + 1) : pollTest b s = raise .initTimeout .init { s with pollcnt := s.pollcnt + 1 } := by
  rcases pollTest_cases b s with ⟨hready, -⟩ | ⟨-, hlt, -⟩ | ⟨-, -, he⟩
  · exact nomatch hb.symm.trans hready
  · exact absurd hle (Nat.not_le.mpr (hlt limit hl))
  · exact he

/-- Settles O24: the status byte is ready, busy below the bound, or busy at the bound. -/
theorem pollRdPhase : Obligations.PollRdPhase := by
  refine fun s => ⟨fun x b h hb => ?_, fun x b h hb hl => ?_, fun x b limit h hb hl hle => ?_,
    fun rx h => exec_read_of_fails (d := .init) rfl h⟩ <;> rw [exec_seqPollRd_of_delivers h]
  · rw [pollTest_of_ready hb]; rfl
  · rw [pollTest_of_busy (s := afterDone s _ _) hb hl]; rfl
  · rw [pollTest_of_bound (s := afterDone s _ _) hb hl hle]; rfl

/-- Settles O25: the capability is called once, and returns or does not. -/
theorem pollWaitPhase : Obligations.PollWaitPhase := by
  refine fun s => ⟨fun h => ?_, fun h => ?_⟩
  · rw [exec, execSeqPollWait, delay_returns _ h]
  · rw [exec, execSeqPollWait, delay_hangs _ h]

/-- Settles O26: a burst of exactly its buffer's length fills the buffer. -/
theorem calibrationBurstPhases : Obligations.CalibrationBurstPhases := fun _ =>
  ⟨fun _ _ h => exec_read_of_delivers rfl h (by rw [toBuffer_toList_self]), fun _ h => exec_read_of_fails (d := .init) rfl h,
    fun _ _ h => exec_read_of_delivers rfl h (by rw [toBuffer_toList_self]), fun _ h => exec_read_of_fails (d := .init) rfl h⟩

/-- Settles O28: the decoder, and nothing else. -/
theorem calDecodePhase : Obligations.CalDecodePhase := exec_seqCalDecode

/-- Settles O27: the two configuration writes, the second of which answers. -/
theorem configurationPhases : Obligations.ConfigurationPhases := fun _ =>
  ⟨fun _ h => exec_write_of_delivers rfl h rfl, fun _ h => exec_write_of_fails (d := .init) rfl h, fun _ h => exec_write_of_delivers rfl h rfl,
    fun _ h => exec_write_of_fails (d := .init) rfl h⟩

/-! ### The phases of `FORCE` (spec/41_measurement_controller.md R143, R144) -/

/-- Settles O32: a read into `MREG`, and a write of it with the mode bits replaced. -/
theorem forcePhases : Obligations.ForcePhases := by
  intro s sentRd sentWr
  have hwr : sentWr = writeFrame (wireAddr s.cfg.aCtrlMeas) (forcedByte s.mreg) := by rw [forcedByte_eq]
  rw [hwr]
  exact ⟨fun _ _ h => exec_read_of_delivers rfl h (by rw [toBuffer_one]), fun _ h => exec_read_of_fails (d := .force) rfl h,
    fun _ h => exec_write_of_delivers rfl h rfl, fun _ h => exec_write_of_fails (d := .force) rfl h⟩

/-! ### The phases of a fetch (spec/41_measurement_controller.md R150 to R153) -/

/-- Settles O33: a burst of exactly its buffer's length fills the buffer. -/
theorem dataRdPhase : Obligations.DataRdPhase := fun _ =>
  ⟨fun _ _ h => exec_read_of_delivers rfl h (by rw [toBuffer_toList_self]), fun _ h => exec_read_of_fails (d := .fetch) rfl h⟩

/-- A 20-bit count takes the high half of its last byte (spec/30_encoding.md R86). -/
theorem count20_toNat (msb lsb xlsb : Byte) :
    (count20 msb lsb xlsb).toNat = msb.toNat * 4096 + lsb.toNat * 16 + xlsb.toNat / 16 := by
  have hhigh : xlsb.toNat / 2 ^ 4 < 2 ^ 4 := Nat.div_lt_of_lt_mul xlsb.isLt
  rw [count20, toNat_append_eq_add, toNat_append_eq_add, BitVec.extractLsb'_toNat, Nat.shiftRight_eq_div_pow, Nat.mod_eq_of_lt hhigh]
  omega

/-- Settles O34: two 20-bit counts and a 16-bit one from the eight bytes of the burst. -/
theorem rawDecodePhase : Obligations.RawDecodePhase := fun _ =>
  ⟨_, _, _, rfl, count20_toNat _ _ _, count20_toNat _ _ _, toNat_append_eq_add _ _⟩

/-! ### The tables of `SEQ` and `SSTATE` (spec/41_measurement_controller.md R153, R154, R161) -/

/-- A bus phase may end its command (spec/41_measurement_controller.md R161, error column). -/
theorem idle_mem_successors {p : Phase} (h : p ∈ busPhases) : .idle ∈ successors p := by
  cases p with
  | pollWait | calDecode | rawDecode | compT | compP => exact absurd h (by decide)
  | _ => decide

theorem pollTest_seq_mem (b : Byte) (s : State) : (pollTest b s).seq ∈ successors .pollRd := by
  rcases pollTest_cases b s with ⟨-, he⟩ | ⟨-, -, he⟩ | ⟨-, -, he⟩ <;> rw [he] <;> simp [successors]

/-- A phase goes to a successor, or hangs where it is (spec/41_measurement_controller.md R161, R162). -/
theorem seq_of_phaseStep {s t : State} (hn : NoReset s) (hp : PhaseStep s t) :
    t.seq ∈ successors s.seq ∨ (t.hung = true ∧ t.seq = s.seq) := by
  cases hp with
  | wait hq => rw [hq]; exact .inl (by decide)
  | refuse hq | init hq | force hq | cached hq | fetch hq | resetWr hq | pollWait hq | cal1Rd hq | cal2Rd hq | calDecode hq | cfgHumWr hq
  | cfgMeasWr hq | forceRd hq | forceWr hq | dataRd hq | rawDecode hq | compT hq | compP hq | compH hq =>
    rw [hq]; exact .inl (by simp [successors])
  | pollRd hq hd => rw [hq]; exact .inl (pollTest_seq_mem ..)
  | failed hq => exact .inl (idle_mem_successors hq)
  | cutOff hq hp hd => exact absurd hd (not_resetAfter_of_noReset hn)
  | pollWaitHangs | hangs => exact .inr ⟨rfl, rfl⟩

/-- Settles O47: only a phase moves `SEQ` where no reset comes. -/
theorem successorTable : Obligations.SuccessorTable := by
  intro s t hn hstep
  cases (stepEffect_of_step hstep).2 with
  | rst hr => simp [hn.1] at hr
  | stuck hh => exact .inr ⟨.inl hh, rfl⟩
  | placedDone hh hq | placedFails hh hq | placedHangs hh hq => exact .inr ⟨.inr (by rw [hq]; rfl), rfl⟩
  | placedReset hh hq hd => exact absurd hd (not_resetAfter_of_noReset hn)
  | phase hr hp => exact .inl ⟨hr, seq_of_phaseStep hn hp⟩

/-- `POLL_RD` leaves `SSTATE`, or ends `INIT` in `Failed` (spec/60_exceptions.md R212, R219). -/
theorem pollTest_sstate (b : Byte) (s : State) : (pollTest b s).sstate = s.sstate ∨ (pollTest b s).sstate = .failed := by
  rcases pollTest_cases b s with ⟨-, he⟩ | ⟨-, -, he⟩ | ⟨-, -, he⟩ <;> rw [he]
  · exact .inl rfl
  · exact .inl rfl
  · exact .inr rfl

/-- `FORCE` drops the cached results (spec/41_measurement_controller.md R142). -/
theorem sstate_of_force {x : SState} (h : x = .idle ∨ x = .measuring ∨ x = .dataReady) :
    .idle = x ∨ (x, .idle) ∈ sstateChanges .idle := by
  rcases h with rfl | rfl | rfl <;> decide

/-- An error of a bus phase leaves `SSTATE`, but inside `INIT`, which runs in `Reset`, it leads to `Failed`
(spec/60_exceptions.md R219 to R221). -/
theorem errorState_of_busPhase {p : Phase} {x : SState} {c : BitVec 3} (h : p ∈ busPhases) (ha : phaseAgrees p x c) :
    errorState (duringOf p) x = x ∨ (x, errorState (duringOf p) x) ∈ sstateChanges p := by
  cases p with
  | resetWr | pollRd | cal1Rd | cal2Rd | cfgHumWr | cfgMeasWr => obtain ⟨rfl, -⟩ := ha; exact .inr (by decide)
  | forceRd | forceWr | dataRd => exact .inl rfl
  | idle | pollWait | calDecode | rawDecode | compT | compP | compH => exact absurd h (by decide)

/-- A phase that runs under its own command changes `SSTATE` as its row of the table says. -/
theorem sstate_of_phaseStep {s t : State} (hn : NoReset s) (ha : phaseAgrees s.seq s.sstate s.cmdreg) (hp : PhaseStep s t) :
    t.sstate = s.sstate ∨ (s.sstate, t.sstate) ∈ sstateChanges s.seq := by
  cases hp with
  | wait | refuse | init | cached | fetch | resetWr | pollWait | pollWaitHangs | cal1Rd | cal2Rd | calDecode | cfgHumWr | forceRd | dataRd
  | rawDecode | compT | compP | hangs => exact .inl rfl
  | force hq hc hs => rw [hq]; exact sstate_of_force ((calvalid_iff s).mp hs)
  | pollRd hq hd =>
    rw [hq] at ha ⊢
    obtain ⟨hs, -⟩ := ha
    exact (pollTest_sstate _ (afterDone s _ _)).imp id fun hf => by rw [hs, hf]; decide
  | cfgMeasWr hq hd | forceWr hq hd =>
    rw [hq] at ha ⊢
    obtain ⟨hs, -⟩ := ha
    rw [hs]; exact .inr (by simp [sstateChanges])
  | compH hq =>
    rw [hq] at ha ⊢
    obtain ⟨hs | hs, -⟩ := ha <;> rw [hs] <;> exact .inr (by simp [sstateChanges])
  | failed hq hp hd => exact errorState_of_busPhase hq ha
  | cutOff hq hp hd => exact absurd hd (not_resetAfter_of_noReset hn)

/-- Settles O48: only a phase changes `SSTATE` where no reset comes. -/
theorem stateTransitionTable : Obligations.StateTransitionTable := by
  intro s t hn ha hstep
  cases (stepEffect_of_step hstep).2 with
  | rst hr => simp [hn.1] at hr
  | stuck | placedDone | placedFails | placedHangs => exact .inl rfl
  | placedReset hh hq hd => exact absurd hd (not_resetAfter_of_noReset hn)
  | phase hr hp => exact (sstate_of_phaseStep hn ha hp).imp_right fun h => ⟨hr, h⟩

/-- `COMP_H`: `OUT_H`, `DataReady`, and the answer (spec/41_measurement_controller.md R152, R153). -/
theorem exec_seqCompH (s : State) : exec .seqCompH s =
    .next (respond .ok (accessorData { s with outH := compOutH s.rawH s.tfine s.cal })
      { s with outH := compOutH s.rawH s.tfine s.cal, sstate := .dataReady }) := by
  rw [exec, execSeqCompH]; rfl

/-- An accessor answers with its own result (spec/41_measurement_controller.md R153). -/
theorem accessorData_eq {s : State} {data : Word}
    (h : (s.cmdreg = 0b100#3 ∧ data = s.outT) ∨ (s.cmdreg = 0b101#3 ∧ data = s.outP) ∨ (s.cmdreg = 0b110#3 ∧ data = s.outH)) :
    accessorData s = data := by
  rcases h with ⟨hc, rfl⟩ | ⟨hc, rfl⟩ | ⟨hc, rfl⟩ <;> simp [accessorData, hc]

/-- An error never makes `SSTATE` `DataReady` (spec/60_exceptions.md R219 to R222). -/
theorem dataReady_of_errorState {d : During} {x : SState} (h : errorState d x = .dataReady) : x = .dataReady := by
  cases d with
  | init => cases h
  | dispatch | force | fetch => exact h

/-- A phase ends in `DataReady` only if it began there or is `COMP_H`. -/
theorem compH_of_dataReady {s t : State} (hp : PhaseStep s t) (ht : t.sstate = .dataReady) : s.sstate = .dataReady ∨ s.seq = .compH := by
  cases hp with
  | compH hq => exact .inr hq
  | wait | refuse | init | cached | fetch | resetWr | pollWait | pollWaitHangs | cal1Rd | cal2Rd | calDecode | cfgHumWr | forceRd
  | dataRd | rawDecode | compT | compP | hangs => exact .inl ht
  | failed => exact .inl (dataReady_of_errorState (d := duringOf s.seq) ht)
  | force | cfgMeasWr | forceWr | cutOff => cases ht
  | pollRd hq hd =>
    rcases pollTest_sstate _ (afterDone s _ _) with hs | hs
    · exact .inl (hs.symm.trans ht)
    · cases hs.symm.trans ht

/-- Settles O38: the rule of `COMP_H`, and a case analysis over what a step can do. -/
theorem fetchEndsInCompHAlone : Obligations.FetchEndsInCompHAlone := by
  refine ⟨fun s => ⟨compOutH s.rawH s.tfine s.cal, fun data h => ?_⟩, fun s t hstep hs ht => ?_⟩
  · rw [exec_seqCompH, accessorData_eq (s := { s with outH := compOutH s.rawH s.tfine s.cal }) h]; rfl
  · cases (stepEffect_of_step hstep).2 with
    | rst | placedReset => cases ht
    | stuck | placedDone | placedFails | placedHangs => exact absurd ht hs
    | phase hr hp => exact ⟨hr, (compH_of_dataReady hp ht).resolve_left hs⟩

/-! ### Runs, one phase at a time -/

/-- `n` steps lead from `s` to `t`. -/
abbrev ReachesIn (n : Nat) (s t : State) : Prop := Host.Core.run core n s = .next t

section

variable {p : Phase} {s t u : State} {n : Nat}

theorem ReachesIn.of_eq (h : s = t) : ReachesIn 0 s t := congrArg Host.Outcome.next h

theorem ReachesIn.trans {m : Nat} (h : ReachesIn m s t) (h' : ReachesIn n t u) : ReachesIn (m + n) s u := core_run_add core h h'

/-- The phase in `SEQ`, then the rest of the run. -/
theorem ReachesIn.phase (hr : Runs s) (hq : s.seq = p) (h : exec (decodePhase p.code) s = .next u) (h' : ReachesIn n u t) :
    ReachesIn (n + 1) s t := by
  subst hq; exact run_phase hr h h'

end

/-! ### Scripted transactions -/

section

variable {p : Phase} {s t : State} {k : Nat} {a : BitVec 7} {d : During} {commit : List Byte → State → State} {rest : List Answer}

theorem delivers_of_script {sent rx : List Byte} (hans : s.answers = rx.map .ok ++ rest) (hl : rx.length = sent.length) :
    Delivers s sent rx := by
  rw [Delivers, hans]; exact deliversFrom_scripted hl

/-- The state after a complete transaction whose answers were scripted. -/
def afterScript (s : State) (sent rx : List Byte) (rest : List Answer) : State :=
  { s with hist := s.hist ++ transactionEvents sent rx, answers := rest, csn := true }

theorem afterDone_eq_afterScript {rx : List Byte} (hans : s.answers = rx.map .ok ++ rest) (sent : List Byte) :
    afterDone s sent rx = afterScript s sent rx rest := by
  have hdrop : s.answers.drop rx.length = rest := by rw [hans]; exact List.drop_left' (List.length_map _)
  rw [afterDone, afterScript, hdrop]

/-- A phase that reads what is scripted, then the rest of the run. -/
theorem ReachesIn.read {n : Nat} {x : Byte} {bytes : List Byte} (hr : Runs s) (hq : s.seq = p)
    (hi : exec (decodePhase p.code) s = .next (busPhase d commit (busRead a n s)))
    (hans : s.answers = (x :: bytes).map .ok ++ rest) (hl : bytes.length = n)
    (h : ReachesIn k (commit bytes (afterScript s (readFrame a n) (x :: bytes) rest)) t) : ReachesIn (k + 1) s t := by
  have hd : Delivers s (readFrame a n) (x :: bytes) := delivers_of_script hans (by simp [readFrame, hl])
  rw [← afterDone_eq_afterScript hans] at h
  exact .phase hr hq (exec_read_of_delivers hi hd rfl) h

/-- A phase that writes, its answers scripted, then the rest of the run. -/
theorem ReachesIn.write {v y z : Byte} (hr : Runs s) (hq : s.seq = p)
    (hi : exec (decodePhase p.code) s = .next (busPhase d commit (busWrite a v s)))
    (hans : s.answers = [y, z].map .ok ++ rest)
    (h : ReachesIn k (commit [] (afterScript s (writeFrame a v) [y, z] rest)) t) : ReachesIn (k + 1) s t := by
  have hd : Delivers s (writeFrame a v) [y, z] := delivers_of_script hans rfl
  rw [← afterDone_eq_afterScript hans] at h
  exact .phase hr hq (exec_write_of_delivers hi hd rfl) h

end

/-! ### Cached accessors (spec/41_measurement_controller.md R155) -/

/-- An accessor is accepted with the word its code asks for. -/
theorem dispatch_accessor {c : BitVec 3} (h : IsAccessor c) (s : State) :
    dispatch c s = .next (acceptAccessor c (accessorData { s with cmdreg := c }) s) := by
  rcases h with rfl | rfl | rfl <;> rfl

theorem accessorData_of_isAccessor {s : State} (h : IsAccessor s.cmdreg) :
    accessorData s = if s.cmdreg = 0b100#3 then s.outT else if s.cmdreg = 0b101#3 then s.outP else s.outH := by
  rcases h with h | h | h <;> simp [accessorData, h]

/-- `IDLE` in `DataReady` with an accessor presented: the cached word is the answer. -/
theorem exec_seqIdle_cached {s : State} {c : BitVec 3} {cs : List (BitVec 3)} (hs : s.sstate = .dataReady) (h : s.cmds = c :: cs)
    (hc : IsAccessor c) : exec .seqIdle s = .next (respond .ok
      (if c = 0b100#3 then s.outT else if c = 0b101#3 then s.outP else s.outH) { s with cmds := cs, cmdreg := c }) := by
  rw [exec_seqIdle_of_cons h, dispatch_accessor hc, acceptAccessor_of_dataReady (s := { s with cmds := cs }) hs,
    accessorData_of_isAccessor (s := { s with cmds := cs, cmdreg := c }) hc]

/-- Settles O54: by induction on the accessors; each leaves the machine idle in `DataReady` with the same results. -/
theorem repeatedAccessorsAreIdempotent : Obligations.RepeatedAccessorsAreIdempotent := by
  intro s gets rest hr hq hs hcmds hgets
  induction gets generalizing s with
  | nil => exact ReachesIn.of_eq (by simp [← show s.cmds = rest from hcmds])
  | cons c gets ih =>
    have hfirst := exec_seqIdle_cached hs hcmds (hgets c List.mem_cons_self)
    have hrest := ih (respond .ok (if c = 0b100#3 then s.outT else if c = 0b101#3 then s.outP else s.outH)
      { s with cmds := gets ++ rest, cmdreg := c }) hr rfl hs rfl fun c' hc' => hgets c' (List.mem_cons_of_mem _ hc')
    refine ReachesIn.phase hr hq hfirst (hrest.trans (congrArg Host.Outcome.next ?_))
    simp only [respond, hq, List.getLastD_cons, List.map_cons, List.append_assoc, List.singleton_append]; rfl

/-! ### `FORCE` (spec/41_measurement_controller.md R142, R145, R160) -/

/-- Settles O57: `IDLE`, `FORCE_RD`, `FORCE_WR`. -/
theorem forceRun : Obligations.ForceRun := by
  intro s cs x m y z rest hr hq hcal hcmds hans
  have hidle : exec .seqIdle s = .next { s with cmds := cs, cmdreg := 0b010#3, sstate := .idle, seq := .forceRd } := by
    rw [exec_seqIdle_of_cons hcmds]
    exact congrArg Host.Outcome.next (acceptForce_of_calvalid (s := { s with cmds := cs }) hcal)
  refine ReachesIn.phase hr hq hidle ?_
  refine ReachesIn.read (x := x) (bytes := [m]) hr rfl rfl hans rfl ?_
  refine ReachesIn.write hr rfl rfl rfl (.of_eq ?_)
  rw [hq, ← forcedByte_eq]; rfl

/-! ### A fetch (spec/41_measurement_controller.md R149, R156, R160) -/

theorem exec_seqIdle_fetch {s : State} {c : BitVec 3} {cs : List (BitVec 3)} (hs : s.sstate = .idle ∨ s.sstate = .measuring)
    (h : s.cmds = c :: cs) (hc : IsAccessor c) : exec .seqIdle s = .next { s with cmds := cs, cmdreg := c, seq := .dataRd } := by
  rw [exec_seqIdle_of_cons h, dispatch_accessor hc, acceptAccessor_of_stale (s := { s with cmds := cs }) hs]

/-- The phases after the burst compute what the big step computes from it, and answer (spec/41_measurement_controller.md R149). -/
theorem reachesIn_compute {s t : State} (hr : Runs s) (hq : s.seq = .rawDecode)
    (ht : respond .ok (accessorData (compute s.databuf s)) (compute s.databuf s) = t) : ReachesIn 4 s t := by
  subst ht
  refine ReachesIn.phase hr hq rfl ?_
  refine ReachesIn.phase hr rfl rfl ?_
  refine ReachesIn.phase hr rfl rfl ?_
  exact ReachesIn.phase hr rfl (exec_seqCompH _) (.of_eq rfl)

/-- Settles O58: `IDLE`, `DATA_RD`, and the four phases that compute. -/
theorem fetchRun : Obligations.FetchRun := by
  intro s c cs x block rest hr hq hs hc hcmds hans
  refine ReachesIn.phase hr hq (exec_seqIdle_fetch hs hcmds hc) ?_
  refine ReachesIn.read hr rfl rfl hans (by simp) ?_
  rw [toBuffer_toList_self]
  refine reachesIn_compute hr rfl ?_
  rw [accessorData_of_isAccessor (by exact hc), hq]; rfl

/-! ### `INIT` (spec/41_measurement_controller.md R131, R133, R140, R160) -/

theorem exec_seqIdle_init {s : State} {cs : List (BitVec 3)} (hs : s.sstate = .reset) (h : s.cmds = 0b001#3 :: cs) :
    exec .seqIdle s = .next { s with cmds := cs, cmdreg := 0b001#3, seq := .resetWr } := by
  rw [exec_seqIdle_of_cons h]
  exact congrArg Host.Outcome.next (acceptInit_of_reset (s := { s with cmds := cs }) hs)

/-- `POLL_RD` with its status byte scripted, then the rest of the run. -/
theorem ReachesIn.pollRd {s t u : State} {k : Nat} {x b : Byte} {rest : List Answer} (hr : Runs s) (hq : s.seq = .pollRd)
    (hans : s.answers = [x, b].map .ok ++ rest)
    (hu : pollTest b (afterScript s (readFrame (wireAddr s.cfg.aStatus) 1) [x, b] rest) = u) (h : ReachesIn k u t) :
    ReachesIn (k + 1) s t := by
  subst hu
  exact .read hr hq rfl hans rfl (by rwa [toBuffer_one])

/-- A `Delay` that returns, then the rest of the run. -/
theorem ReachesIn.pollWait {s t : State} {k : Nat} (hr : Runs s) (hq : s.seq = .pollWait) (hd : s.delays.headD true = true)
    (h : ReachesIn k { s with hist := s.hist ++ [.delay 2], delays := s.delays.tail, seq := .pollRd } t) : ReachesIn (k + 1) s t :=
  .phase hr hq ((pollWaitPhase s).1 hd) h

/-- The next `Delay` returns, and so do the ones after it. -/
theorem delays_return {delays : List Bool} {n : Nat} (h : ∀ b ∈ delays.take (n + 1), b = true) :
    delays.headD true = true ∧ ∀ b ∈ delays.tail.take n, b = true := by
  cases delays with
  | nil => simp
  | cons d ds => simpa using h

/-- The events of status reads that are answered busy, each followed by its `Delay(2)` (spec/41_measurement_controller.md R160). -/
def busyEvents (cfg : Config) (busy : List (Byte × Byte)) : List BusEvent :=
  busy.flatMap fun p => transactionEvents (readFrame (wireAddr cfg.aStatus) 1) [p.1, p.2] ++ [.delay 2]

/-- The poll while the device is busy and the bound is not reached: two steps a status read (spec/41_measurement_controller.md R133,
R134). -/
theorem reachesIn_busy {busy : List (Byte × Byte)} {s t : State} {rest : List Answer} (hr : Runs s) (hq : s.seq = .pollRd)
    (hcsn : s.csn = true) (hbusy : ∀ p ∈ busy, p.2.getLsbD 0 = true)
    (hl : ∀ limit, s.cfg.pollLimit = some limit → s.pollcnt + busy.length < limit)
    (hd : ∀ b ∈ s.delays.take busy.length, b = true)
    (hans : s.answers = (busy.flatMap fun p => [p.1, p.2]).map .ok ++ rest)
    (ht : { s with
      pollcnt := s.pollcnt + busy.length
      answers := rest
      delays := s.delays.drop busy.length
      hist := s.hist ++ busyEvents s.cfg busy } = t) : ReachesIn (2 * busy.length) s t := by
  induction busy generalizing s with
  | nil => exact .of_eq (by rw [← ht]; simp [busyEvents, ← show s.answers = rest from hans])
  | cons p busy ih =>
    obtain ⟨hhead, htail⟩ := delays_return hd
    have hbound : ∀ limit, s.cfg.pollLimit = some limit → s.pollcnt + 1 + busy.length < limit := fun limit h => by
      have := hl limit h
      rw [List.length_cons] at this
      omega
    refine ReachesIn.pollRd (k := 2 * busy.length + 1) hr hq hans
      (pollTest_of_busy (hbusy p List.mem_cons_self) fun limit h => (Nat.le_add_right _ _).trans_lt (hbound limit h)) ?_
    refine ReachesIn.pollWait hr rfl hhead ?_
    refine ih hr rfl rfl (fun p' h => hbusy p' (List.mem_cons_of_mem _ h)) hbound htail rfl ?_
    rw [← ht]
    simp only [afterScript, busyEvents, hq, hcsn, List.flatMap_cons, List.append_assoc, List.length_cons, List.drop_tail,
      Nat.add_assoc, Nat.add_comm 1]

/-- `INIT` up to the status read that ends its poll: the reset write, and the reads answered busy before. -/
theorem reachesIn_initPoll {s : State} {cs : List (BitVec 3)} {r0 r1 : Byte} {busy : List (Byte × Byte)} {rest : List Answer}
    (hr : Runs s) (hq : s.seq = .idle) (hs : s.sstate = .reset) (hcmds : s.cmds = 0b001#3 :: cs)
    (hbusy : ∀ p ∈ busy, p.2.getLsbD 0 = true) (hl : ∀ limit, s.cfg.pollLimit = some limit → busy.length < limit)
    (hd : ∀ b ∈ s.delays.take busy.length, b = true)
    (hans : s.answers = [r0, r1].map .ok ++ ((busy.flatMap fun p => [p.1, p.2]).map .ok ++ rest)) :
    ReachesIn (2 * busy.length + 2) s { s with
      cmds := cs
      cmdreg := 0b001#3
      seq := .pollRd
      pollcnt := busy.length
      csn := true
      answers := rest
      delays := s.delays.drop busy.length
      hist := s.hist ++ transactionEvents (writeFrame (wireAddr s.cfg.aReset) s.cfg.vReset) [r0, r1] ++ busyEvents s.cfg busy } := by
  refine ReachesIn.phase hr hq (exec_seqIdle_init hs hcmds) ?_
  refine ReachesIn.write hr rfl rfl hans ?_
  refine reachesIn_busy hr rfl rfl hbusy (by simpa [afterScript] using hl) hd rfl ?_
  rw [Nat.zero_add]; rfl

/-- The last status read before a timeout is followed by no `Delay`. -/
theorem dropLast_flatMap_concat {α β : Type} (f : α → List β) (e : β) (l : List α) (a : α) :
    ((l ++ [a]).flatMap fun p => f p ++ [e]).dropLast = (l.flatMap fun p => f p ++ [e]) ++ f a := by
  rw [List.flatMap_append, List.flatMap_singleton, ← List.append_assoc, List.dropLast_concat]

/-- Settles O56: the poll up to its last read, which is answered busy at the bound. -/
theorem initTimeoutRun : Obligations.InitTimeoutRun := by
  intro s cs r0 r1 busy rest hr hq hs hcmds hbusy hlim hd hans
  rcases List.eq_nil_or_concat' busy with rfl | ⟨init, ⟨x, b⟩, rfl⟩
  · exact absurd hlim (Nat.lt_irrefl 0 <| pollLimit_pos hr.1 ·)
  · simp only [List.length_append, List.length_singleton, Nat.add_sub_cancel] at hlim hd
    have hb : b.getLsbD 0 = true := hbusy (x, b) (by simp)
    have hpoll := reachesIn_initPoll (rest := [x, b].map .ok ++ rest) hr hq hs hcmds (fun p h => hbusy p (List.mem_append_left _ h))
      (by simp [hlim]) hd (by simpa using hans)
    have hlen : 2 * (init ++ [(x, b)]).length + 1 = 2 * init.length + 2 + 1 := by simp [Nat.mul_add]
    rw [hlen]
    refine hpoll.trans (ReachesIn.pollRd hr rfl rfl (pollTest_of_bound hb hlim (Nat.le_refl _)) (.of_eq ?_))
    simp only [afterScript, raise, respond, busyEvents, dropLast_flatMap_concat, List.length_append, List.length_singleton,
      Nat.add_sub_cancel, List.append_assoc, hq]
    rfl

/-- Settles O55: the poll up to the status read that finds the device ready, the two bursts, the decoder, the two configuration writes. -/
theorem initRun : Obligations.InitRun := by
  intro s cs r0 r1 busy x ready x1 block1 x2 block2 h0 h1 m0 m1 rest hr hq hs hcmds hbusy hready hlim hd hans
  simp only [List.map_append, List.append_assoc] at hans
  refine ReachesIn.trans (reachesIn_initPoll hr hq hs hcmds hbusy hlim hd hans) (n := 6) ?_
  refine ReachesIn.pollRd hr rfl rfl (pollTest_of_ready hready _) ?_
  refine ReachesIn.read hr rfl rfl rfl (by simp) ?_
  refine ReachesIn.read hr rfl rfl rfl (by simp) ?_
  refine ReachesIn.phase hr rfl (calDecodePhase _) ?_
  refine ReachesIn.write hr rfl rfl rfl ?_
  refine ReachesIn.write hr rfl rfl rfl (.of_eq ?_)
  simp only [toBuffer_toList_self, afterScript, respond, busyEvents, hq]

/-! ### The big steps (spec/41_measurement_controller.md R131, R142, R146 to R149) -/

/-- Some number of steps leads from `s` to `t`. -/
def Reaches (s t : State) : Prop := ∃ n, ReachesIn n s t

section

variable {p : Phase} {s t u : State}

theorem Reaches.refl (s : State) : Reaches s s := ⟨0, rfl⟩

theorem Reaches.trans (h : Reaches s t) (h' : Reaches t u) : Reaches s u := by
  obtain ⟨m, hm⟩ := h
  obtain ⟨n, hn⟩ := h'
  exact ⟨m + n, hm.trans hn⟩

/-- The phase in `SEQ`, then more steps: at least one step. -/
theorem exists_pos_reachesIn (hr : Runs s) (hq : s.seq = p) (h : exec (decodePhase p.code) s = .next u) (h' : Reaches u t) :
    ∃ n, 0 < n ∧ ReachesIn n s t := by
  obtain ⟨n, hn⟩ := h'
  exact ⟨n + 1, Nat.succ_pos n, .phase hr hq h hn⟩

theorem Reaches.phase (hr : Runs s) (hq : s.seq = p) (h : exec (decodePhase p.code) s = .next u) (h' : Reaches u t) : Reaches s t := by
  obtain ⟨n, -, hn⟩ := exists_pos_reachesIn hr hq h h'
  exact ⟨n, hn⟩

end

/-- A read that is complete was delivered. -/
theorem busRead_eq_done {a : BitVec 7} {n : Nat} {s u : State} {bytes : List Byte} (h : busRead a n s = (.done bytes, u)) :
    ∃ rx, u = afterDone s (readFrame a n) rx := by
  rcases transactionOutcomes s (readFrame a n) with ⟨rx, -, -, ht⟩ | ⟨_, -, -, ht⟩ | ⟨_, _, _, -, -, ht, -⟩ | ⟨_, -, -, ht⟩ <;>
    rw [busRead, ht] at h <;> cases h
  exact ⟨rx, rfl⟩

/-- A write that is complete was delivered. -/
theorem busWrite_eq_done {a : BitVec 7} {v : Byte} {s u : State} {bytes : List Byte} (h : busWrite a v s = (.done bytes, u)) :
    ∃ rx, u = afterDone s (writeFrame a v) rx := by
  rcases transactionOutcomes s (writeFrame a v) with ⟨rx, -, -, ht⟩ | ⟨_, -, -, ht⟩ | ⟨_, _, _, -, -, ht, -⟩ | ⟨_, -, -, ht⟩ <;>
    rw [busWrite, ht] at h <;> cases h
  exact ⟨rx, rfl⟩

section

variable {p : Phase} {s : State} {a : BitVec 7} {d : During} {commit commit' : List Byte → State → State}

/-- A phase and a big step that run the same transaction agree, if they do from where it is complete: any other outcome ends both
alike. -/
theorem reaches_busPhase {r : BusResult × State} (hr : Runs s) (hq : s.seq = p)
    (hi : exec (decodePhase p.code) s = .next (busPhase d commit r))
    (h : ∀ bytes u, r = (.done bytes, u) → Reaches (commit bytes u) (commit' bytes u)) : Reaches s (busPhase d commit' r) := by
  refine .phase hr hq hi ?_
  obtain ⟨res, u⟩ := r
  cases res with
  | done bytes => exact h bytes u rfl
  | failed | reset | hung => exact .refl _

theorem reaches_busRead {n : Nat} (hr : Runs s) (hq : s.seq = p)
    (hi : exec (decodePhase p.code) s = .next (busPhase d commit (busRead a n s)))
    (h : ∀ rx bytes, Reaches (commit bytes (afterDone s (readFrame a n) rx)) (commit' bytes (afterDone s (readFrame a n) rx))) :
    Reaches s (busPhase d commit' (busRead a n s)) :=
  reaches_busPhase hr hq hi fun bytes _ hdone => by
    obtain ⟨rx, rfl⟩ := busRead_eq_done hdone
    exact h rx bytes

theorem reaches_busWrite {v : Byte} (hr : Runs s) (hq : s.seq = p)
    (hi : exec (decodePhase p.code) s = .next (busPhase d commit (busWrite a v s)))
    (h : ∀ rx bytes, Reaches (commit bytes (afterDone s (writeFrame a v) rx)) (commit' bytes (afterDone s (writeFrame a v) rx))) :
    Reaches s (busPhase d commit' (busWrite a v s)) :=
  reaches_busPhase hr hq hi fun bytes _ hdone => by
    obtain ⟨rx, rfl⟩ := busWrite_eq_done hdone
    exact h rx bytes

end

theorem reaches_bigForce {s : State} (hr : Runs s) : Reaches (acceptForce s) (bigForce s) := by
  cases hc : s.calvalid with
  | false =>
    rw [acceptForce_of_not_calvalid hc, bigForce, if_neg (by simp [hc])]
    exact .refl _
  | true =>
    rw [acceptForce_of_calvalid hc, bigForce, if_pos hc]
    exact reaches_busRead hr rfl rfl fun _ _ => reaches_busWrite hr rfl rfl fun _ _ => .refl _

theorem bigGet_of_fresh {s : State} (h : s.sstate = .dataReady) (c : BitVec 3) :
    bigGet c s = respond .ok (accessorData { s with cmdreg := c }) { s with cmdreg := c } :=
  if_pos (by simp [State.fresh, h])

theorem bigGet_of_uncalibrated {s : State} (h : s.sstate = .reset ∨ s.sstate = .failed) (c : BitVec 3) :
    bigGet c s = raise .notCalibrated .dispatch { s with cmdreg := c } := by
  have hfresh : s.fresh = false := by rcases h with h | h <;> simp [State.fresh, h]
  simp [bigGet, hfresh, calvalid_eq_false h]

theorem bigGet_of_stale {s : State} (h : s.sstate = .idle ∨ s.sstate = .measuring) (c : BitVec 3) :
    bigGet c s = busPhase .fetch
      (fun rx u => respond .ok (accessorData (compute (toBuffer 8 rx) u)) (compute (toBuffer 8 rx) u))
      (rdData { s with cmdreg := c, seq := .dataRd }) := by
  have hfresh : s.fresh = false := by rcases h with h | h <;> simp [State.fresh, h]
  have hcal : s.calvalid = true := (calvalid_iff s).mpr (h.imp_right .inl)
  simp [bigGet, hfresh, hcal]

theorem reaches_bigGet {s : State} (hr : Runs s) (c : BitVec 3) :
    Reaches (acceptAccessor c (accessorData { s with cmdreg := c }) s) (bigGet c s) := by
  have hstate : s.sstate = .dataReady ∨ (s.sstate = .idle ∨ s.sstate = .measuring) ∨ (s.sstate = .reset ∨ s.sstate = .failed) := by
    cases s.sstate <;> decide
  rcases hstate with h | h | h
  · rw [acceptAccessor_of_dataReady h, bigGet_of_fresh h]
    exact .refl _
  · rw [acceptAccessor_of_stale h, bigGet_of_stale h]
    exact reaches_busRead hr rfl rfl fun rx bytes => ⟨4, reachesIn_compute hr rfl rfl⟩
  · rw [acceptAccessor_of_uncalibrated h, bigGet_of_uncalibrated h]
    exact .refl _

/-- Settles O59: dispatch accepts or answers as the big step does, and each transaction ends both alike or lets both go on. -/
theorem forceAndAccessorsAgreeWithBigStep : Obligations.ForceAndAccessorsAgreeWithBigStep := by
  refine fun s cs hr hq => ⟨fun h => ?_, fun c hc h => ?_⟩
  · exact exists_pos_reachesIn hr hq (exec_seqIdle_of_cons h) (reaches_bigForce (s := { s with cmds := cs }) hr)
  · exact exists_pos_reachesIn hr hq ((exec_seqIdle_of_cons h).trans (dispatch_accessor hc _))
      (reaches_bigGet (s := { s with cmds := cs }) hr c)

/-! ### The big step of `INIT` (spec/41_measurement_controller.md R131, R133) -/

section

variable {s u : State} {rx : List Byte} (fuel : Nat) (hp : rdStatus s = (.done rx, u))

include hp

theorem poll_of_ready (hb : (toBuffer 1 rx)[0].getLsbD 0 = false) :
    poll (fuel + 1) s = .ready { u with pollcnt := u.pollcnt + 1 } := by
  rw [poll, hp]
  exact if_pos hb

theorem poll_of_bound (hb : (toBuffer 1 rx)[0].getLsbD 0 = true) {limit : Nat} (hl : u.cfg.pollLimit = some limit)
    (hle : limit ≤ u.pollcnt + 1) : poll (fuel + 1) s = .ended (raise .initTimeout .init { u with pollcnt := u.pollcnt + 1 }) := by
  rw [poll, hp]
  simp only [hb, hl, Bool.true_eq_false, if_false, Option.any_some, decide_eq_true hle, if_true]

/-- Busy below the bound: what comes of the `Delay` decides. -/
theorem poll_of_busy (hb : (toBuffer 1 rx)[0].getLsbD 0 = true) (hl : ∀ limit, u.cfg.pollLimit = some limit → u.pollcnt + 1 < limit) :
    poll (fuel + 1) s =
      if u.delays.headD true then
        poll fuel { u with pollcnt := u.pollcnt + 1, hist := u.hist ++ [.delay 2], delays := u.delays.tail, seq := .pollRd }
      else
        .ended { u with
          pollcnt := u.pollcnt + 1, seq := .pollWait, hist := u.hist ++ [.delay 2], delays := u.delays.tail, hung := true } := by
  have hany : u.cfg.pollLimit.any (· ≤ u.pollcnt + 1) = false := by
    cases h : u.cfg.pollLimit with
    | none => rfl
    | some limit => simpa using hl limit h
  rw [poll, hp]
  simp only [hb, hany, Bool.true_eq_false, if_false]
  cases hd : u.delays.headD true with
  | true => rw [delay_returns (s := { u with pollcnt := u.pollcnt + 1, seq := .pollWait }) _ hd]; rfl
  | false => rw [delay_hangs (s := { u with pollcnt := u.pollcnt + 1, seq := .pollWait }) _ hd]; rfl

end

/-- The phases carry out from `s` what the poll answers: they come to the end it gives, or to `CAL1_RD` with the engine running. -/
def PollAgrees (s : State) : PollResult → Prop
  | .ready u => Runs u ∧ Reaches s { u with seq := .cal1Rd }
  | .ended u => Reaches s u
  | .busy => True

theorem PollAgrees.of_reaches {s t : State} {r : PollResult} (h : Reaches s t) (hr : PollAgrees t r) : PollAgrees s r := by
  cases r with
  | ready u => exact ⟨hr.1, h.trans hr.2⟩
  | ended u => exact h.trans hr
  | busy => trivial

/-- The poll and its phases agree, by induction on the status reads allowed (spec/41_measurement_controller.md R133, R134). -/
theorem pollAgrees (fuel : Nat) {s : State} (hr : Runs s) (hq : s.seq = .pollRd) : PollAgrees s (poll fuel s) := by
  induction fuel generalizing s with
  | zero => trivial
  | succ fuel ih =>
    have hx : exec .seqPollRd s = .next (busPhase .init (fun rx u => pollTest (toBuffer 1 rx)[0] u) (rdStatus s)) := rfl
    cases hp : rdStatus s with | mk r u =>
    rw [hp] at hx
    cases r with
    | failed | reset | hung => rw [poll, hp]; exact .phase hr hq hx (.refl _)
    | done rx =>
      obtain ⟨rx', rfl⟩ := busRead_eq_done hp
      rcases pollTest_cases (toBuffer 1 rx)[0] (afterDone s _ rx') with ⟨hb, he⟩ | ⟨hb, hl, he⟩ | ⟨hb, ⟨limit, hl, hle⟩, he⟩
      · rw [poll_of_ready fuel hp hb]
        exact ⟨hr, .phase hr hq (hx.trans (congrArg _ he)) (.refl _)⟩
      · rw [poll_of_busy fuel hp hb hl]
        split
        · next hd =>
          exact .of_reaches (.phase hr hq (hx.trans (congrArg _ he)) (.phase hr rfl ((pollWaitPhase _).1 hd) (.refl _))) (ih hr rfl)
        · next hd =>
          exact .phase hr hq (hx.trans (congrArg _ he)) (.phase hr rfl ((pollWaitPhase _).2 (by simpa using hd)) (.refl _))
      · rw [poll_of_bound fuel hp hb hl hle]
        exact .phase hr hq (hx.trans (congrArg _ he)) (.refl _)

/-- After the poll: the two bursts, the decoder, the two configuration writes (spec/41_measurement_controller.md R135 to R139). -/
theorem reaches_bigLoad {s : State} (hr : Runs s) : Reaches { s with seq := .cal1Rd } (bigLoad s) := by
  refine reaches_busRead hr rfl rfl fun _ _ => ?_
  refine reaches_busRead hr rfl rfl fun _ _ => ?_
  refine .phase hr rfl (exec_seqCalDecode _) ?_
  exact reaches_busWrite hr rfl rfl fun _ _ => reaches_busWrite hr rfl rfl fun _ _ => .refl _

theorem bigInit_of_ne_reset {s : State} (h : s.sstate ≠ .reset) (fuel : Nat) :
    bigInit fuel s = some (raise .refused .dispatch { s with cmdreg := 0b001#3 }) :=
  if_neg h

/-- From dispatch on, the phases of `INIT` carry out its big step. -/
theorem reaches_bigInit {fuel : Nat} {s t : State} (hr : Runs s) (h : bigInit fuel s = some t) : Reaches (acceptInit s) t := by
  by_cases hs : s.sstate = .reset
  · rw [acceptInit_of_reset hs]
    rw [bigInit, if_pos hs] at h
    have hx : exec .seqResetWr { s with cmdreg := 0b001#3, seq := .resetWr } =
        .next (busPhase .init (fun _ u => { u with pollcnt := 0, seq := .pollRd })
          (wrReset s.cfg.vReset { s with cmdreg := 0b001#3, seq := .resetWr })) := rfl
    cases hp : wrReset s.cfg.vReset { s with cmdreg := 0b001#3, seq := .resetWr } with | mk r u =>
    rw [hp] at h hx
    cases r with
    | failed | reset | hung => cases h; exact .phase hr rfl hx (.refl _)
    | done rx =>
      have hu : Runs u := by
        obtain ⟨rx', rfl⟩ := busWrite_eq_done hp
        exact hr
      refine .phase hr rfl hx ?_
      have hpoll := pollAgrees fuel (s := { u with pollcnt := 0, seq := .pollRd }) hu rfl
      dsimp only at h
      split at h
      · next v hv =>
        rw [hv] at hpoll
        obtain ⟨hrun, hready⟩ := hpoll
        cases h
        exact hready.trans (reaches_bigLoad hrun)
      · next v hv => rw [hv] at hpoll; cases h; exact hpoll
      · cases h
  · rw [acceptInit_of_ne_reset hs]
    cases (bigInit_of_ne_reset hs fuel).symm.trans h
    exact .refl _

/-- Settles O60: dispatch accepts or refuses as the big step does, and the phases go through its transactions and its poll. -/
theorem initAgreesWithBigStep : Obligations.InitAgreesWithBigStep := by
  intro s t cs fuel hr hq hcmds h
  exact exists_pos_reachesIn hr hq (exec_seqIdle_of_cons hcmds) (reaches_bigInit (s := { s with cmds := cs }) hr h)

end Sys2Proof.Safety

/-! PROOFS. The statements of `42_compensation_engine.md`: the three formulas as two's-complement datapaths (R171 to R175, R178, R181, R185),
and what they give as numbers (R180, R182, R186, R190). `BitVec.ofInt w` takes every integer operation to the machine operation of width `w`,
and every wrap, shift and divide of the model is the signed reading of one; so a datapath is its formula read through `BitVec.ofInt`. -/

namespace Sys2Proof.Safety

open Machine

/-! ### Integer operations as machine operations (spec/42_compensation_engine.md R171 to R175) -/

theorem ofInt_sub {w : Nat} (x y : Int) : BitVec.ofInt w (x - y) = BitVec.ofInt w x - BitVec.ofInt w y := by
  rw [Int.sub_eq_add_neg, BitVec.ofInt_add, BitVec.ofInt_neg, BitVec.sub_eq_add_neg]

theorem ofInt_mul_two_pow {w : Nat} (x : Int) (n : Nat) : BitVec.ofInt w (x * 2 ^ n) = BitVec.ofInt w x <<< n := by
  have hpow : BitVec.ofInt w (2 ^ n) = BitVec.twoPow w n := by
    apply BitVec.eq_of_toNat_eq
    rw [BitVec.toNat_ofInt, BitVec.toNat_twoPow]
    norm_cast
  rw [BitVec.ofInt_mul, hpow, BitVec.shiftLeft_eq_mul_twoPow]

theorem w32_eq_toInt (x : Int) : w32 x = (BitVec.ofInt 32 x).toInt := (BitVec.toInt_ofInt x).symm

theorem w64_eq_toInt (x : Int) : w64 x = (BitVec.ofInt 64 x).toInt := (BitVec.toInt_ofInt x).symm

theorem shl32_eq_toInt (x : Int) (n : Nat) : shl32 x n = (BitVec.ofInt 32 x <<< n).toInt := by
  rw [shl32, w32_eq_toInt, ofInt_mul_two_pow]

theorem shl64_eq_toInt (x : Int) (n : Nat) : shl64 x n = (BitVec.ofInt 64 x <<< n).toInt := by
  rw [shl64, w64_eq_toInt, ofInt_mul_two_pow]

/-- `asr` is floor division (R173). -/
theorem asr_eq_ediv (x : Int) (n : Nat) : asr x n = x / 2 ^ n :=
  Int.fdiv_eq_ediv_of_nonneg x (Int.pow_nonneg (by decide))

theorem asr_toInt {w : Nat} (x : BitVec w) (n : Nat) : asr x.toInt n = (x.sshiftRight n).toInt := by
  rw [asr_eq_ediv, BitVec.toInt_sshiftRight, Int.shiftRight_eq_div_pow, Int.natCast_pow, Int.cast_ofNat_Int]

theorem toInt_eq_zero_iff {w : Nat} {x : BitVec w} : x.toInt = 0 ↔ x = 0 := by
  rw [← BitVec.toInt_inj, BitVec.ofNat_eq_ofNat, BitVec.toInt_zero]

theorem sdiv64_toInt (a b : BitVec 64) : sdiv64 a.toInt b.toInt = (a.sdiv b).toInt := (BitVec.toInt_sdiv a b).symm

/-- A signed register enters a datapath sign-extended (R175). -/
theorem ofInt_toInt_eq_signExtend {m w : Nat} (x : BitVec m) : BitVec.ofInt w x.toInt = x.signExtend w := rfl

/-- An unsigned register enters a datapath zero-extended (R175). -/
theorem ofInt_toNat {m w : Nat} (x : BitVec m) : BitVec.ofInt w x.toNat = x.setWidth w := by
  rw [BitVec.ofInt_natCast, BitVec.ofNat_toNat]

/-- The logical shift of an unsigned register, in a datapath it fits (R173). -/
theorem ofInt_lsr_toNat {m w : Nat} (x : BitVec m) (h : m ≤ w) (n : Nat) :
    BitVec.ofInt w (lsr x.toNat n : Nat) = x.setWidth w >>> n := by
  have hx : x.toNat < 2 ^ w := x.isLt.trans_le (Nat.pow_le_pow_right (by decide) h)
  rw [BitVec.ofInt_natCast, lsr, ← Nat.shiftRight_eq_div_pow]
  apply BitVec.eq_of_toNat_eq
  rw [BitVec.toNat_ofNat, BitVec.toNat_ushiftRight, BitVec.toNat_setWidth, Nat.mod_eq_of_lt hx,
    Nat.mod_eq_of_lt ((Nat.shiftRight_le _ _).trans_lt hx)]

/-! ### The clamp (spec/42_compensation_engine.md R186) -/

section

variable {x lo hi : Int}

theorem clamp_of_lt (h : x < lo) : clamp x lo hi = lo := if_pos h

theorem clamp_of_gt (hlo : lo ≤ x) (h : hi < x) : clamp x lo hi = hi := (if_neg (by omega)).trans (if_pos h)

theorem clamp_of_mem (hlo : lo ≤ x) (hhi : x ≤ hi) : clamp x lo hi = x := (if_neg (by omega)).trans (if_neg (by omega))

theorem le_clamp (h : lo ≤ hi) : lo ≤ clamp x lo hi := by
  unfold clamp
  split
  · exact Int.le_refl _
  · split <;> omega

end

theorem clamp_toInt {w : Nat} (x lo hi : BitVec w) :
    clamp x.toInt lo.toInt hi.toInt = (if x.slt lo then lo else if hi.slt x then hi else x).toInt := by
  simp only [clamp, gt_iff_lt, BitVec.slt_iff_toInt_lt, apply_ite BitVec.toInt]

/-- On a value that is not negative the last shift of `COMP_H` is the logical one (R173). -/
theorem ofNat_lsr_toInt {w : Nat} {x : BitVec w} (h : 0 ≤ x.toInt) (n : Nat) : BitVec.ofNat w (lsr x.toInt.toNat n) = x >>> n := by
  have hmsb : x.msb = false := by rw [BitVec.msb_eq_toInt, decide_eq_false_iff_not]; omega
  have hlsr := ofInt_lsr_toNat x le_rfl n
  rwa [BitVec.setWidth_eq, BitVec.ofInt_natCast, ← BitVec.toNat_toInt_of_msb x hmsb] at hlsr

/-! ### The three datapaths

The long formulas are written once more over words, part by part as the model has them; each part over the integers is the signed reading of
the same part over words. -/

theorem exec_seqCompT (s : State) : exec .seqCompT s =
    .next { s with tfine := compTfine s.rawT s.cal, outT := compOutT (compTfine s.rawT s.cal), seq := .compP } := rfl

theorem exec_seqCompP (s : State) : exec .seqCompP s = .next { s with outP := compOutP s.rawP s.tfine s.cal, seq := .compH } := rfl

/-- Settles O35: each step of the two formulas is the machine operation it is read as, and the coefficients are widened by their signs. -/
theorem compTDatapath : Obligations.CompTDatapath := by
  intro s
  simp only [exec_seqCompT, compTfine, fineTemperature, compOutT, exposedTemperature, w32_eq_toInt, BitVec.ofInt_toInt, BitVec.ofInt_add,
    ofInt_sub, BitVec.ofInt_mul, asr_toInt, ofInt_lsr_toNat, ofInt_toNat, Nat.reduceLeDiff]
  rfl

/-- Steps P.1 to P.4 on 64-bit words (R181). -/
def pressureOffset64 (tfine p4 p5 p6 : BitVec 64) : BitVec 64 :=
  let v1 := tfine - 128000
  v1 * v1 * p6 + (v1 * p5) <<< 17 + p4 <<< 35

/-- Steps P.1, P.5 and P.6 on 64-bit words (R181). -/
def pressureDenominator64 (tfine p1 p2 p3 : BitVec 64) : BitVec 64 :=
  let v1 := tfine - 128000
  let v1b := (v1 * v1 * p3).sshiftRight 8 + (v1 * p2) <<< 12
  ((0x800000000000#64 + v1b) * p1).sshiftRight 33

/-- Steps P.8 to P.12 on 64-bit words (R181). -/
def pressureQuotient64 (rawP v2c v1c p7 p8 p9 : BitVec 64) : BitVec 64 :=
  let p0 := 1048576 - rawP
  let p1 := ((p0 <<< 31 - v2c) * 3125).sdiv v1c
  let v1d := (p9 * p1.sshiftRight 13 * p1.sshiftRight 13).sshiftRight 25
  let v2d := (p8 * p1).sshiftRight 19
  (p1 + v1d + v2d).sshiftRight 8 + p7 <<< 4

theorem pressureOffset_eq_toInt (tfine p4 p5 p6 : Int) : pressureOffset tfine p4 p5 p6 =
    (pressureOffset64 (BitVec.ofInt 64 tfine) (BitVec.ofInt 64 p4) (BitVec.ofInt 64 p5) (BitVec.ofInt 64 p6)).toInt := by
  simp only [pressureOffset, w64_eq_toInt, shl64_eq_toInt, BitVec.ofInt_toInt, BitVec.ofInt_add, ofInt_sub, BitVec.ofInt_mul]
  rfl

theorem pressureDenominator_eq_toInt (tfine p1 p2 p3 : Int) : pressureDenominator tfine p1 p2 p3 =
    (pressureDenominator64 (BitVec.ofInt 64 tfine) (BitVec.ofInt 64 p1) (BitVec.ofInt 64 p2) (BitVec.ofInt 64 p3)).toInt := by
  simp only [pressureDenominator, w64_eq_toInt, shl64_eq_toInt, asr_toInt, BitVec.ofInt_toInt, BitVec.ofInt_add, ofInt_sub, BitVec.ofInt_mul]
  rfl

theorem pressureQuotient_eq_toInt (rawP : Nat) (v2c v1c : BitVec 64) (p7 p8 p9 : Int) :
    pressureQuotient rawP v2c.toInt v1c.toInt p7 p8 p9 =
      (pressureQuotient64 (BitVec.ofInt 64 rawP) v2c v1c (BitVec.ofInt 64 p7) (BitVec.ofInt 64 p8) (BitVec.ofInt 64 p9)).toInt := by
  simp only [pressureQuotient, w64_eq_toInt, shl64_eq_toInt, asr_toInt, sdiv64_toInt, BitVec.ofInt_toInt, BitVec.ofInt_add, ofInt_sub,
    BitVec.ofInt_mul]
  rfl

/-- Settles O36: the parts of the formula are words, the test of P.7 is on the word, and the narrowing at the end keeps the low half. -/
theorem compPDatapath : Obligations.CompPDatapath := by
  intro s
  simp only [exec_seqCompP, compOutP, pressure, pressureOffset_eq_toInt, pressureDenominator_eq_toInt, pressureQuotient_eq_toInt,
    ofInt_toInt_eq_signExtend, ofInt_toNat, BitVec.signExtend_eq_setWidth_of_le, Nat.reduceLeDiff, toInt_eq_zero_iff]
  rfl

/-- Steps H.1 to H.13 on 32-bit words (R185). -/
def humidityUnclamped32 (rawH tfine h1 h2 h3 h4 h5 h6 : BitVec 32) : BitVec 32 :=
  let x := tfine - 76800
  let d := rawH <<< 14 - h4 <<< 20 - h5 * x + 16384
  let l := d.sshiftRight 15
  let e := (x * h6).sshiftRight 10
  let f := (x * h3).sshiftRight 11 + 32768
  let g := (e * f).sshiftRight 10 + 2097152
  let r := (g * h2 + 8192).sshiftRight 14
  let y := l * r
  let q := y.sshiftRight 15
  y - ((q * q).sshiftRight 7 * h1).sshiftRight 4

/-- Steps H.14 and H.15 on a 32-bit word (R186). -/
def clampAndShift32 (z : BitVec 32) : BitVec 32 := (if z.slt 0 then 0 else if BitVec.slt 419430400 z then 419430400 else z) >>> 12

theorem humidityUnclamped_eq_toInt (rawH : Nat) (tfine h1 h2 h3 h4 h5 h6 : Int) : humidityUnclamped rawH tfine h1 h2 h3 h4 h5 h6 =
    (humidityUnclamped32 (BitVec.ofInt 32 rawH) (BitVec.ofInt 32 tfine) (BitVec.ofInt 32 h1) (BitVec.ofInt 32 h2) (BitVec.ofInt 32 h3)
      (BitVec.ofInt 32 h4) (BitVec.ofInt 32 h5) (BitVec.ofInt 32 h6)).toInt := by
  simp only [humidityUnclamped, w32_eq_toInt, shl32_eq_toInt, asr_toInt, BitVec.ofInt_toInt, BitVec.ofInt_add, ofInt_sub, BitVec.ofInt_mul]
  rfl

theorem ofNat_lsr_clamp_toInt (z : BitVec 32) : BitVec.ofNat 32 (lsr (clamp z.toInt 0 419430400).toNat 12) = clampAndShift32 z := by
  have hclamp : clamp z.toInt 0 419430400 = _ := clamp_toInt z 0 419430400
  have hpos : 0 ≤ clamp z.toInt 0 419430400 := le_clamp (by decide)
  rw [hclamp] at hpos ⊢
  exact ofNat_lsr_toInt hpos 12

/-- Settles O37: the value before the clamp is a word, and so are the clamp and the shift of it. -/
theorem compHDatapath : Obligations.CompHDatapath := by
  intro s
  have hout : compOutH s.rawH s.tfine s.cal = clampAndShift32 (humidityUnclamped32 (s.rawH.setWidth 32) s.tfine (s.cal.h1.setWidth 32)
      (s.cal.h2.signExtend 32) (s.cal.h3.setWidth 32) (s.cal.h4.signExtend 32) (s.cal.h5.signExtend 32) (s.cal.h6.signExtend 32)) := by
    simp only [compOutH, humidity, humidityUnclamped_eq_toInt, ofNat_lsr_clamp_toInt, ofInt_toNat, BitVec.ofInt_toInt]
    rfl
  rw [exec_seqCompH, hout]
  rfl

/-! ### `COMP_T` as numbers (spec/42_compensation_engine.md R179, R180, R190) -/

theorem w32_bounds (x : Int) : -2 ^ 31 ≤ w32 x ∧ w32 x < 2 ^ 31 :=
  ⟨Int.le_bmod (by decide), Int.bmod_lt (by decide)⟩

theorem w32_eq_self {x : Int} (h : x.natAbs < 2 ^ 31) : w32 x = x := Int.bmod_eq_of_le (by omega) (by omega)

/-- A product of bounded factors does not wrap. -/
theorem w32_mul_eq_self {x y : Int} {a b : Nat} (hx : x.natAbs ≤ a) (hy : y.natAbs ≤ b) (h : a * b < 2 ^ 31) : w32 (x * y) = x * y :=
  w32_eq_self (by rw [Int.natAbs_mul]; exact (Nat.mul_le_mul hx hy).trans_lt h)

/-- `|var1| <= 2^20` and `|var2| <= 2^17`, so step T.12 never wraps (R180 (d)). -/
theorem shiftedSum_eq (m1 m2 : Int) : w32 (asr (w32 m1) 11 + asr (w32 m2) 14) = w32 m1 / 2048 + w32 m2 / 16384 := by
  have h1 := w32_bounds m1
  have h2 := w32_bounds m2
  rw [asr_eq_ediv, asr_eq_ediv]
  exact w32_eq_self (by omega)

theorem natAbs_shiftedSum_lt (m1 m2 : Int) : (w32 (asr (w32 m1) 11 + asr (w32 m2) 14)).natAbs < 2097152 := by
  have h1 := w32_bounds m1
  have h2 := w32_bounds m2
  rw [shiftedSum_eq]
  omega

theorem natAbs_fineTemperature_lt (rawT : Nat) (t1 t2 t3 : Int) : (fineTemperature rawT t1 t2 t3).natAbs < 2097152 :=
  natAbs_shiftedSum_lt ..

theorem exposedTemperature_eq {t : Int} (h : t.natAbs < 2097152) : exposedTemperature t = (t * 5 + 128) / 256 := by
  rw [exposedTemperature, w32_eq_self (x := t * 5) (by omega), w32_eq_self (x := t * 5 + 128) (by omega), asr_eq_ediv]
  rfl

theorem compTfine_toInt (rawT : BitVec 20) (c : Cal) :
    (compTfine rawT c).toInt = fineTemperature rawT.toNat c.t1.toNat c.t2.toInt c.t3.toInt := by
  have h := natAbs_fineTemperature_lt rawT.toNat c.t1.toNat c.t2.toInt c.t3.toInt
  rw [compTfine, ← w32_eq_toInt, w32_eq_self (by omega)]

theorem natAbs_compTfine_lt (rawT : BitVec 20) (c : Cal) : (compTfine rawT c).toInt.natAbs < 2097152 := by
  rw [compTfine_toInt]; exact natAbs_fineTemperature_lt ..

/-- Steps T.13 to T.15 never wrap on a `TFINE` of `COMP_T` (R180 (d)). -/
theorem compOutT_compTfine_toInt (rawT : BitVec 20) (c : Cal) :
    (compOutT (compTfine rawT c)).toInt = ((compTfine rawT c).toInt * 5 + 128) / 256 := by
  have h := natAbs_compTfine_lt rawT c
  rw [compOutT, ← w32_eq_toInt, exposedTemperature_eq h, w32_eq_self (by omega)]

/-- Settles O39: the two shifted terms are bounded whatever they are shifted from, and five times their sum is far below 2^31. -/
theorem fineTemperatureBounded : Obligations.FineTemperatureBounded := by
  intro s
  obtain ⟨hlo, hhi⟩ : -2097152 < (compTfine s.rawT s.cal).toInt ∧ (compTfine s.rawT s.cal).toInt < 2097152 := by
    have h := natAbs_compTfine_lt s.rawT s.cal
    omega
  exact ⟨_, exec_seqCompT s, hlo, hhi, compOutT_compTfine_toInt s.rawT s.cal⟩

/-- Steps T.3 to T.12 on factors of the size the box allows: no product leaves the signed range (R190). -/
theorem temperatureTerms_of_box {d1 d2 t2 t3 : Int} (hd1 : d1.natAbs ≤ 131072) (h2 : t2.natAbs ≤ 16383) (hd2 : d2.natAbs ≤ 46340)
    (h3 : t3.natAbs ≤ 4095) :
    w32 (asr (w32 (w32 d1 * t2)) 11 + asr (w32 (asr (w32 (w32 d2 * w32 d2)) 12 * t3)) 14) =
      d1 * t2 / 2048 + d2 * d2 / 4096 * t3 / 16384 := by
  have hm1 : w32 (w32 d1 * t2) = d1 * t2 := by
    rw [w32_eq_self (x := d1) (by omega), w32_mul_eq_self hd1 h2 (by decide)]
  have hsq : w32 (w32 d2 * w32 d2) = d2 * d2 := by
    rw [w32_eq_self (x := d2) (by omega), w32_mul_eq_self hd2 hd2 (by decide)]
  have hs2 : (d2 * d2 / 4096).natAbs ≤ 524266 := by
    have hpos := mul_self_nonneg d2
    have hle := Nat.mul_le_mul hd2 hd2
    rw [← Int.natAbs_mul] at hle
    omega
  have hm2 : w32 (asr (d2 * d2) 12 * t3) = d2 * d2 / 4096 * t3 := by
    rw [asr_eq_ediv]; exact w32_mul_eq_self hs2 h3 (by decide)
  rw [shiftedSum_eq, hm1, hsq, hm2]

/-- `RAW_T` and `T1` are in range, so `d1` is too, whatever the box says of `d2` (R180 (c), R190). -/
theorem fineTemperature_eq_of_box {rawT : Nat} {t1 t2 t3 : Int} (hraw : rawT < 2 ^ 20) (h1 : 0 ≤ t1 ∧ t1 < 2 ^ 16)
    (h2 : t2.natAbs ≤ 16383) (hd2 : ((rawT / 16 : Nat) - t1).natAbs ≤ 46340) (h3 : t3.natAbs ≤ 4095) :
    fineTemperature rawT t1 t2 t3 =
      (((rawT / 8 : Nat) - 2 * t1) * t2) / 2048 + (((rawT / 16 : Nat) - t1) * ((rawT / 16 : Nat) - t1) / 4096 * t3) / 16384 :=
  temperatureTerms_of_box (d1 := (rawT / 8 : Nat) - 2 * t1) (by omega) h2 hd2 h3

/-- Settles O40: in the box no step of `TFINE` wraps, and the steps of `OUT_T` never do. -/
theorem temperatureOverflowFreeBox : Obligations.TemperatureOverflowFreeBox := by
  intro s t1 t2 t3 d2 h2 hd2 h3
  have hfine := fineTemperature_eq_of_box s.rawT.isLt ⟨Int.natCast_nonneg _, by exact_mod_cast s.cal.t1.isLt⟩ h2 hd2 h3
  rw [← compTfine_toInt] at hfine
  refine ⟨_, exec_seqCompT s, hfine, ?_⟩
  rw [← hfine]; exact compOutT_compTfine_toInt s.rawT s.cal

/-! ### The zero-denominator escape (spec/42_compensation_engine.md R182) -/

theorem asr_eq_zero_iff (x : Int) (n : Nat) : asr x n = 0 ↔ 0 ≤ x ∧ x < 2 ^ n := by
  rw [asr_eq_ediv, Int.ediv_eq_iff_of_pos (by positivity), Int.zero_mul, Int.zero_add]

theorem exec_seqCompP_of_escape {s : State}
    (h : pressureDenominator s.tfine.toInt s.cal.p1.toNat s.cal.p2.toInt s.cal.p3.toInt = 0) :
    exec .seqCompP s = .next { s with outP := 0, seq := .compH } := by
  rw [exec_seqCompP, show compOutP s.rawP s.tfine s.cal = 0 from if_pos h]

/-- `P1 = 0` (R184 (a)). -/
theorem pressureDenominator_zero (tfine p2 p3 : Int) : pressureDenominator tfine 0 p2 p3 = 0 := by
  rw [pressureDenominator, Int.mul_zero]; rfl

/-- Settles O41: the denominator is the product shifted right by 33, which is 0 exactly on the range; `P1 = 0` makes the product 0. -/
theorem zeroDenominatorEscape : Obligations.ZeroDenominatorEscape := by
  intro s v1 v1b product
  have hiff : 0 ≤ product ∧ product ≤ 2 ^ 33 - 1 ↔ pressureDenominator s.tfine.toInt s.cal.p1.toNat s.cal.p2.toInt s.cal.p3.toInt = 0 :=
    (and_congr_right' Int.le_sub_one_iff).trans (asr_eq_zero_iff product 33).symm
  refine ⟨hiff, fun h => exec_seqCompP_of_escape (hiff.mp h), fun h => exec_seqCompP_of_escape ?_⟩
  rw [h]; exact pressureDenominator_zero ..

/-! ### The clamp of the humidity (spec/42_compensation_engine.md R186) -/

/-- Settles O42: below, above and inside the range of the clamp. -/
theorem humidityClamp : Obligations.HumidityClamp := by
  intro s c z
  have hout : compOutH s.rawH s.tfine c = BitVec.ofNat 32 (lsr (clamp z 0 419430400).toNat 12) := by rw [compOutH, humidity]
  refine ⟨_, exec_seqCompH s, respond_errlog .., ⟨_, respond_responses ..⟩, compOutH_toNat_le s.rawH s.tfine c, fun h => ?_, fun h => ?_,
    fun h0 h1 => ?_⟩
  · exact hout.trans (by rw [clamp_of_lt h]; rfl)
  · exact hout.trans (by rw [clamp_of_gt (by omega) h]; rfl)
  · change ((compOutH s.rawH s.tfine c).toNat : Int) = z / 4096
    rw [hout, clamp_of_mem h0 h1, lsr, BitVec.toNat_ofNat]
    omega

end Sys2Proof.Safety

/-! PROOFS. The statements of `60_exceptions.md`: what an error at dispatch leaves alone (R222), and which phases touch the bus (R211) and
use time (R232). -/

namespace Sys2Proof.Safety

open Machine

/-! ### Errors at dispatch (spec/60_exceptions.md R222) -/

/-- A dispatch that answers an error raised it; every accepted command answers `OK` or nothing. -/
theorem raise_of_dispatch_error {c : BitVec 3} {s t : State} {e : Error} {data : Word} (h : dispatch c s = .next t)
    (hr : t.responses = s.responses ++ [{ status := .error e, data := data }]) :
    (e = .notCalibrated ∨ e = .refused) ∧ t = raise e .dispatch { s with cmdreg := c } := by
  rcases dispatch_cases h with ⟨e', he', rfl⟩ | ⟨-, -, rfl⟩ | ⟨-, -, rfl⟩ | ⟨-, -, rfl⟩ | ⟨-, -, rfl⟩
  case inl =>
    obtain ⟨rfl, -⟩ : e' = e ∧ 0 = data := by simpa using hr
    exact ⟨he', rfl⟩
  all_goals simp at hr

/-- Settles O22: the error was raised with the command taken from the host's list, and `raise` at dispatch changes only `ERRLOG`, `SEQ` and
the responses. -/
theorem dispatchErrorsChangeOnlyErrlogAndCmdreg : Obligations.DispatchErrorsChangeOnlyErrlogAndCmdreg := by
  intro s t c cs e data hcmds hexec hr
  rw [exec_seqIdle_of_cons hcmds] at hexec
  obtain ⟨he, rfl⟩ := raise_of_dispatch_error hexec hr
  exact ⟨he, rfl⟩

/-! ### Who touches the bus and who uses time (spec/60_exceptions.md R211, R232) -/

theorem delay_not_mem_xfers (ms : Nat) (sent rx : List Byte) : .delay ms ∉ List.zipWith BusEvent.xfer sent rx := by
  intro h
  rw [← List.map_uncurry_zip_eq_zipWith] at h
  obtain ⟨_, -, he⟩ := List.mem_map.mp h
  cases he

theorem delay_not_mem_stopEvents (ms : Nat) (tx : Byte) (stop : Answer) : .delay ms ∉ stopEvents tx stop := by
  cases stop <;> simp [stopEvents]

theorem delay_not_mem_transactionEvents (sent rx : List Byte) (ms : Nat) : .delay ms ∉ transactionEvents sent rx := by
  simp [transactionEvents, delay_not_mem_xfers]

theorem delay_not_mem_failureEvents (sent rx : List Byte) (ms : Nat) : .delay ms ∉ failureEvents sent rx := by
  simp [failureEvents, delay_not_mem_xfers]

/-- What the phase in `SEQ` records on the way from `s` to `t`: nothing, the bus events of a bus phase, or the `Delay` of `POLL_WAIT`. -/
def RecordsAsPhase (s t : State) : Prop :=
  t.hist = s.hist ∨ (s.seq ∈ busPhases ∧ ∃ es, t.hist = s.hist ++ es ∧ ∀ ms, .delay ms ∉ es) ∨
    (s.seq = .pollWait ∧ t.hist = s.hist ++ [.delay 2])

theorem recordsAsPhase_of_phaseStep {s t : State} (hp : PhaseStep s t) : RecordsAsPhase s t := by
  cases hp with
  | wait | refuse | init | force | cached | fetch | calDecode | rawDecode | compT | compP | compH => exact .inl rfl
  | pollWait hq | pollWaitHangs hq => exact .inr (.inr ⟨hq, rfl⟩)
  | resetWr hq | cal1Rd hq | cal2Rd hq | cfgHumWr hq | cfgMeasWr hq | forceRd hq | forceWr hq | dataRd hq =>
    exact .inr (.inl ⟨by rw [hq]; decide, _, rfl, delay_not_mem_transactionEvents _ _⟩)
  | pollRd hq => exact .inr (.inl ⟨by rw [hq]; decide, _, pollTest_hist .., delay_not_mem_transactionEvents _ _⟩)
  | failed hq => exact .inr (.inl ⟨hq, _, rfl, delay_not_mem_failureEvents _ _⟩)
  | cutOff hq => exact .inr (.inl ⟨hq, _, rfl, fun ms => by simp [delay_not_mem_xfers, delay_not_mem_stopEvents]⟩)
  | hangs hq => exact .inr (.inl ⟨hq, _, rfl, fun ms => by simp [delay_not_mem_xfers]⟩)

/-- `IDLE` records nothing. -/
theorem RecordsAsPhase.ne_idle {s t : State} (h : RecordsAsPhase s t) (hne : t.hist ≠ s.hist) : s.seq ≠ .idle := by
  rcases h with h | ⟨hbus, -⟩ | ⟨hwait, -⟩
  · exact absurd h hne
  · intro hidle; rw [hidle] at hbus; exact absurd hbus (by decide)
  · rw [hwait]; decide

/-- In `Reset` and `Failed` the only phases beside `IDLE` are those of `INIT` (spec/41_measurement_controller.md R157). -/
theorem cmdreg_of_phaseAgrees {p : Phase} {x : SState} {c : BitVec 3} (hp : p ≠ .idle) (ha : phaseAgrees p x c)
    (hx : x = .reset ∨ x = .failed) : c = 0b001#3 := by
  cases p with
  | idle => exact absurd rfl hp
  | resetWr | pollRd | pollWait | cal1Rd | cal2Rd | calDecode | cfgHumWr | cfgMeasWr => exact ha.2
  | forceRd | forceWr => obtain ⟨rfl, -⟩ := ha; exact absurd hx (by decide)
  | dataRd | rawDecode | compT | compP | compH => obtain ⟨rfl | rfl, -⟩ := ha <;> exact absurd hx (by decide)

/-- Settles O49: the phase that runs says what is recorded; where something is, the phase is not `IDLE`, so in `Reset` and `Failed` it is one
of `INIT`. -/
theorem busEventsOnlyInBusPhases : Obligations.BusEventsOnlyInBusPhases := by
  intro s t hr hstep
  rw [step_of_runs hr] at hstep
  have hrec : RecordsAsPhase s t := recordsAsPhase_of_phaseStep (phaseStep_of_exec hstep)
  exact ⟨hrec, fun ha hx hne => cmdreg_of_phaseAgrees (hrec.ne_idle hne) ha hx⟩

end Sys2Proof.Safety

/-! PROOFS. The statements of `70_reset_and_hazards.md`: the reset input, between steps and inside a transaction (R250 to R252), what one step
runs and that it always answers (R268), and that a register without a value has no influence (R251). -/

namespace Sys2Proof.Safety

open Machine

/-! ### What a step runs (spec/70_reset_and_hazards.md R250, R268) -/

/-- An asserted `rst` goes before everything else a step can do (spec/70_reset_and_hazards.md R250). -/
theorem step_of_rst {s : State} (hok : s.cfg.ok = true) (hrst : s.rst = true) : step s = .next (hardwareReset s) := by
  simp [step, hok, hrst]

/-- An engine that hangs in a call stays as it is (spec/41_measurement_controller.md R162). -/
theorem step_of_hung {s : State} (hok : s.cfg.ok = true) (hrst : s.rst = false) (hhung : s.hung = true) : step s = .next s := by
  obtain ⟨-, -, hstays⟩ := stepStops
  exact hstays s hok hrst hhung

/-- A transaction placed from outside is taken away and run (log 7). -/
theorem step_of_busReq {s : State} {tr : Transaction} (hok : s.cfg.ok = true) (hrst : s.rst = false) (hhung : s.hung = false)
    (hreq : s.busReq = some tr) : step s = exec (decodeTransaction s.cfg tr) { s with busReq := none } := by
  simp [step, hok, hrst, hhung, hreq]

/-- In `IDLE` a step looks at the host's list (spec/41_measurement_controller.md R130). -/
theorem step_of_idle {s : State} (hr : Runs s) (hq : s.seq = .idle) : step s = exec .seqIdle s := by
  rw [step_of_runs hr, hq]; rfl

/-- Settles O7: by where the step finds its operation. -/
theorem stepRunsDecodedOperation : Obligations.StepRunsDecodedOperation := by
  refine ⟨fun s i hr hi => ?_, fun s c cs i hr hq hcmds hi => ?_, fun s hr hq hcmds => ?_, fun s tr i hok hrst hhung hreq hi => ?_⟩
  · cases hi; exact step_of_runs hr
  · cases hi; rw [step_of_idle hr hq, exec_seqIdle_of_cons hcmds, exec_decodeCommand]
  · rw [step_of_idle hr hq, exec_seqIdle_of_nil hcmds]
  · cases (decode_sentBytes s.cfg tr).symm.trans hi
    exact step_of_busReq hok hrst hhung hreq

/-- Settles O11: the pin is looked at before `hung`, `busReq` and `SEQ`. -/
theorem hardwareResetByPin : Obligations.HardwareResetByPin := fun _ hok hrst => step_of_rst hok hrst

/-- Settles O9: `rst`, a hung call, a placed transaction and every phase answer a next state. -/
theorem everyStepIsSafe : Obligations.EveryStepIsSafe := fun _ => safe_of_ok

/-! ### `rst` and hangs inside a transaction (spec/70_reset_and_hazards.md R250, spec/41_measurement_controller.md R162) -/

/-- `i`, whose transaction sends `sent` and has received `rx`, resets where `rst` comes next, and hangs where the next exchange does. -/
def ResetsOrHangs (i : Instr) (s : State) (sent rx : List Byte) : Prop :=
  (∀ stop, ResetAfter s sent rx stop → exec i s = .next (afterReset s sent rx stop)) ∧
    (HangsAfter s sent rx → exec i s = .next (afterHang s sent rx))

section

variable {i : Instr} {s : State} {a : BitVec 7} {d : During} {commit : List Byte → State → State}

/-- A phase that runs the transaction `p` ends with it where it is cut off or hangs. -/
theorem resetsOrHangs_of_busPhase {p : BusResult × State} {sent rx : List Byte} (hi : exec i s = .next (busPhase d commit p))
    (hreset : ∀ stop, ResetAfter s sent rx stop → ∃ t, p = (.reset, t) ∧ hardwareReset t = afterReset s sent rx stop)
    (hhang : HangsAfter s sent rx → p = (.hung, afterHang s sent rx)) : ResetsOrHangs i s sent rx := by
  refine ⟨fun stop h => ?_, fun h => ?_⟩
  · obtain ⟨t, ht, hafter⟩ := hreset stop h
    rw [hi, ht, ← hafter]; rfl
  · rw [hi, hhang h]; rfl

theorem resetsOrHangs_of_busRead {n : Nat} (hi : exec i s = .next (busPhase d commit (busRead a n s))) (rx : List Byte) :
    ResetsOrHangs i s (readFrame a n) rx :=
  resetsOrHangs_of_busPhase hi (fun _ => busRead_of_resets) busRead_of_hangs

theorem resetsOrHangs_of_busWrite {v : Byte} (hi : exec i s = .next (busPhase d commit (busWrite a v s))) (rx : List Byte) :
    ResetsOrHangs i s (writeFrame a v) rx :=
  resetsOrHangs_of_busPhase hi (fun _ => busWrite_of_resets) busWrite_of_hangs

end

/-- Settles O12: each bus phase runs one read or one write, and neither outcome reaches what the phase does with the bytes. -/
theorem resetOrHangInsideTransaction : Obligations.ResetOrHangInsideTransaction := by
  intro s i sent rx hp
  cases i with
  | seqResetWr | seqCfgHumWr | seqCfgMeasWr | seqForceWr => cases hp; exact resetsOrHangs_of_busWrite rfl rx
  | seqPollRd | seqCal1Rd | seqCal2Rd | seqForceRd | seqDataRd => cases hp; exact resetsOrHangs_of_busRead rfl rx
  | _ => cases hp

/-! ### The registers that hold a value, by phase and by controller state (spec/10_state.md R18, R28, R29) -/

/-- Two states agree on the parameters, on the environment, and on the registers that always hold a value. -/
structure AgreeOnShared (s t : State) : Prop where
  cfg : s.cfg = t.cfg
  sstate : s.sstate = t.sstate
  errlog : s.errlog = t.errlog
  seq : s.seq = t.seq
  csn : s.csn = t.csn
  hist : s.hist = t.hist
  responses : s.responses = t.responses
  cmds : s.cmds = t.cmds
  answers : s.answers = t.answers
  delays : s.delays = t.delays
  rst : s.rst = t.rst
  hung : s.hung = t.hung
  busReq : s.busReq = t.busReq
  busOut : s.busOut = t.busOut

/-- Two states agree on the registers that hold a value on entry to a phase, beside `CMDREG`: what the command's earlier phases have written
and a later one reads. -/
def AgreeAt (p : Phase) (s t : State) : Prop :=
  match p with
  | .idle | .resetWr | .cal1Rd | .forceRd | .dataRd => True
  | .pollRd | .pollWait => s.pollcnt = t.pollcnt
  | .cal2Rd => s.calbuf1 = t.calbuf1
  | .calDecode => s.calbuf1 = t.calbuf1 ∧ s.calbuf2 = t.calbuf2
  | .cfgHumWr | .cfgMeasWr => s.cal = t.cal
  | .forceWr => s.mreg = t.mreg
  | .rawDecode => s.databuf = t.databuf
  | .compT => s.rawT = t.rawT ∧ s.rawP = t.rawP ∧ s.rawH = t.rawH
  | .compP => s.rawP = t.rawP ∧ s.rawH = t.rawH ∧ s.tfine = t.tfine ∧ s.outT = t.outT
  | .compH => s.rawH = t.rawH ∧ s.tfine = t.tfine ∧ s.outT = t.outT ∧ s.outP = t.outP

/-- Two states agree on the registers that hold a value in a controller state: `CAL` where `CALVALID`, the results where `FRESH`
(spec/10_state.md R22, R23). -/
def AgreeIn (x : SState) (s t : State) : Prop :=
  match x with
  | .reset | .failed => True
  | .idle | .measuring => s.cal = t.cal
  | .dataReady => s.cal = t.cal ∧ s.outT = t.outT ∧ s.outP = t.outP ∧ s.outH = t.outH

/-- `AgreeOnLive`, with the live registers listed by phase and by controller state (`agreeOnLive_iff`). -/
structure AgreeByPhase (s t : State) : Prop where
  shared : AgreeOnShared s t
  cmdreg : s.seq ≠ .idle → s.cmdreg = t.cmdreg
  phase : AgreeAt s.seq s t
  state : AgreeIn s.sstate s t

theorem agreeAt_of_agreeOnLive {s t : State} (h : AgreeOnLive s t) : AgreeAt s.seq s t := by
  cases hq : s.seq with
  | idle | resetWr | cal1Rd | forceRd | dataRd => trivial
  | pollRd => exact h.pollcnt (.inl hq)
  | pollWait => exact h.pollcnt (.inr hq)
  | cal2Rd => exact h.calbuf1 (.inl hq)
  | calDecode => exact ⟨h.calbuf1 (.inr hq), h.calbuf2 hq⟩
  | cfgHumWr => exact h.cal (.inr (.inl hq))
  | cfgMeasWr => exact h.cal (.inr (.inr hq))
  | forceWr => exact h.mreg hq
  | rawDecode => exact h.databuf hq
  | compT => exact ⟨h.rawT hq, h.rawP (.inl hq), h.rawH (.inl hq)⟩
  | compP => exact ⟨h.rawP (.inr hq), h.rawH (.inr (.inl hq)), h.tfine (.inl hq), h.outT (.inl hq)⟩
  | compH => exact ⟨h.rawH (.inr (.inr hq)), h.tfine (.inr hq), h.outT (.inr (.inl hq)), h.outP (.inl hq)⟩

theorem agreeIn_of_agreeOnLive {s t : State} (h : AgreeOnLive s t) : AgreeIn s.sstate s t := by
  have hcal (hx : s.sstate = .idle ∨ s.sstate = .measuring ∨ s.sstate = .dataReady) : s.cal = t.cal :=
    h.cal (.inl ((calvalid_iff s).mpr hx))
  cases hs : s.sstate with
  | reset | failed => trivial
  | idle => exact hcal (.inl hs)
  | measuring => exact hcal (.inr (.inl hs))
  | dataReady => exact ⟨hcal (.inr (.inr hs)), h.outT (.inr (.inr hs)), h.outP (.inr hs), h.outH hs⟩

section

variable {s t : State}

theorem AgreeByPhase.at_phase (h : AgreeByPhase s t) {p : Phase} (hq : s.seq = p) : AgreeAt p s t := hq ▸ h.phase

theorem AgreeByPhase.in_state (h : AgreeByPhase s t) {x : SState} (hs : s.sstate = x) : AgreeIn x s t := hs ▸ h.state

theorem AgreeByPhase.cal_of_calvalid (h : AgreeByPhase s t) (hc : s.calvalid = true) : s.cal = t.cal := by
  rcases (calvalid_iff s).mp hc with hs | hs | hs
  · exact h.in_state hs
  · exact h.in_state hs
  · obtain ⟨hcal, -⟩ := h.in_state hs; exact hcal

/-- `FORCE` and the fetches run where the coefficients hold a value (spec/10_state.md R23). -/
theorem AgreeByPhase.cal_of_stale (h : AgreeByPhase s t) (hx : s.sstate = .idle ∨ s.sstate = .measuring) : s.cal = t.cal :=
  h.cal_of_calvalid ((calvalid_iff s).mpr (hx.imp_right .inl))

/-- Where there are no fresh results, only the coefficients count. -/
theorem agreeIn_of_stale {x : SState} (hx : x = .idle ∨ x = .measuring) (hcal : s.cal = t.cal) : AgreeIn x s t := by
  rcases hx with rfl | rfl <;> exact hcal

theorem AgreeByPhase.results_of_fresh (h : AgreeByPhase s t) (hs : s.sstate = .dataReady) :
    s.outT = t.outT ∧ s.outP = t.outP ∧ s.outH = t.outH := by
  obtain ⟨-, hout⟩ := h.in_state hs; exact hout

/-- Inside a command `CMDREG` holds its code (spec/10_state.md R26). -/
theorem AgreeByPhase.cmdreg_at (h : AgreeByPhase s t) {p : Phase} (hq : s.seq = p) (hp : p ≠ .idle := by decide) : s.cmdreg = t.cmdreg :=
  h.cmdreg (hq ▸ hp)

/-- The relation of the obligation is the one that lists the live registers by phase and by controller state. -/
theorem agreeOnLive_iff : AgreeOnLive s t ↔ AgreeByPhase s t where
  mp h := ⟨{ h with }, h.cmdreg, agreeAt_of_agreeOnLive h, agreeIn_of_agreeOnLive h⟩
  mpr h := { h.shared with
    cmdreg := h.cmdreg
    pollcnt := by rintro (hq | hq) <;> exact h.at_phase hq
    mreg := fun hq => h.at_phase hq
    calbuf1 := by
      rintro (hq | hq)
      · exact h.at_phase hq
      · obtain ⟨h1, -⟩ := h.at_phase hq; exact h1
    calbuf2 := fun hq => by obtain ⟨-, h2⟩ := h.at_phase hq; exact h2
    databuf := fun hq => h.at_phase hq
    cal := by
      rintro (hc | hq | hq)
      · exact h.cal_of_calvalid hc
      · exact h.at_phase hq
      · exact h.at_phase hq
    rawT := fun hq => by obtain ⟨hT, -, -⟩ := h.at_phase hq; exact hT
    rawP := by
      rintro (hq | hq)
      · obtain ⟨-, hP, -⟩ := h.at_phase hq; exact hP
      · obtain ⟨hP, -⟩ := h.at_phase hq; exact hP
    rawH := by
      rintro (hq | hq | hq)
      · obtain ⟨-, -, hH⟩ := h.at_phase hq; exact hH
      · obtain ⟨-, hH, -⟩ := h.at_phase hq; exact hH
      · obtain ⟨hH, -⟩ := h.at_phase hq; exact hH
    tfine := by
      rintro (hq | hq)
      · obtain ⟨-, -, hfine, -⟩ := h.at_phase hq; exact hfine
      · obtain ⟨-, hfine, -⟩ := h.at_phase hq; exact hfine
    outT := by
      rintro (hq | hq | hs)
      · obtain ⟨-, -, -, hoT⟩ := h.at_phase hq; exact hoT
      · obtain ⟨-, -, hoT, -⟩ := h.at_phase hq; exact hoT
      · obtain ⟨hoT, -⟩ := h.results_of_fresh hs; exact hoT
    outP := by
      rintro (hq | hs)
      · obtain ⟨-, -, -, hoP⟩ := h.at_phase hq; exact hoP
      · obtain ⟨-, hoP, -⟩ := h.results_of_fresh hs; exact hoP
    outH := fun hs => by obtain ⟨-, -, hoH⟩ := h.results_of_fresh hs; exact hoH }

/-! ### The relation and the environment: transactions, errors, resets -/

theorem AgreeByPhase.afterDone (h : AgreeByPhase s t) (sent rx : List Byte) : AgreeByPhase (afterDone s sent rx) (afterDone t sent rx) :=
  ⟨{ h.shared with csn := rfl, hist := congrArg (· ++ _) h.shared.hist, answers := congrArg (List.drop _) h.shared.answers },
    h.cmdreg, h.phase, h.state⟩

theorem AgreeByPhase.afterFailure (h : AgreeByPhase s t) (sent rx : List Byte) :
    AgreeByPhase (afterFailure s sent rx) (afterFailure t sent rx) :=
  ⟨{ h.shared with csn := rfl, hist := congrArg (· ++ _) h.shared.hist, answers := congrArg (List.drop _) h.shared.answers },
    h.cmdreg, h.phase, h.state⟩

theorem AgreeByPhase.afterHang (h : AgreeByPhase s t) (sent rx : List Byte) : AgreeByPhase (afterHang s sent rx) (afterHang t sent rx) :=
  ⟨{ h.shared with
      csn := rfl, hung := rfl, hist := congrArg (· ++ _) h.shared.hist, answers := congrArg (List.drop _) h.shared.answers },
    h.cmdreg, h.phase, h.state⟩

theorem AgreeByPhase.withCmds (h : AgreeByPhase s t) (cmds : List (BitVec 3)) :
    AgreeByPhase { s with cmds := cmds } { t with cmds := cmds } :=
  ⟨{ h.shared with cmds := rfl }, h.cmdreg, h.phase, h.state⟩

theorem AgreeByPhase.withBusReq (h : AgreeByPhase s t) (req : Option Transaction) :
    AgreeByPhase { s with busReq := req } { t with busReq := req } :=
  ⟨{ h.shared with busReq := rfl }, h.cmdreg, h.phase, h.state⟩

theorem AgreeByPhase.withBusOut (h : AgreeByPhase s t) (out : Option (List Byte)) :
    AgreeByPhase { s with busOut := out } { t with busOut := out } :=
  ⟨{ h.shared with busOut := rfl }, h.cmdreg, h.phase, h.state⟩

theorem AgreeByPhase.withCmdreg (h : AgreeByPhase s t) (c : BitVec 3) : AgreeByPhase { s with cmdreg := c } { t with cmdreg := c } :=
  ⟨{ h.shared with }, fun _ => rfl, h.phase, h.state⟩

/-- In the reset state no register but the shared ones counts (spec/70_reset_and_hazards.md R251). -/
theorem AgreeByPhase.of_reset (h : AgreeOnShared s t) (hq : s.seq = .idle) (hs : s.sstate = .reset) : AgreeByPhase s t :=
  ⟨h, fun hne => absurd hq hne, hq ▸ trivial, hs ▸ trivial⟩

theorem AgreeByPhase.hardwareReset (h : AgreeByPhase s t) : AgreeByPhase (hardwareReset s) (hardwareReset t) := by
  refine .of_reset { h.shared with sstate := rfl, errlog := rfl, seq := rfl, csn := rfl, rst := rfl, hung := rfl, hist := ?_ } rfl rfl
  rw [hardwareReset_hist, hardwareReset_hist, h.shared.csn, h.shared.hist]

theorem AgreeByPhase.afterReset (h : AgreeByPhase s t) (sent rx : List Byte) (stop : Answer) :
    AgreeByPhase (afterReset s sent rx stop) (afterReset t sent rx stop) :=
  .of_reset { h.shared with
    sstate := rfl, errlog := rfl, seq := rfl, csn := rfl, rst := rfl, hung := rfl
    hist := congrArg (· ++ _) h.shared.hist, answers := congrArg (List.drop _) h.shared.answers } rfl rfl

/-- In `IDLE`, what counts is what the controller state says. -/
theorem AgreeByPhase.respond (h : AgreeByPhase s t) (st : Status) {data data' : Word} (hd : data = data') :
    AgreeByPhase (respond st data s) (respond st data' t) := by
  subst hd
  exact ⟨{ h.shared with seq := rfl, responses := congrArg (· ++ _) h.shared.responses }, fun hne => absurd rfl hne, trivial, h.state⟩

/-- An error inside `INIT` takes the meaning of the coefficients and the results, any other leaves them (spec/60_exceptions.md R219 to
R222). -/
theorem AgreeByPhase.raise (h : AgreeByPhase s t) (e : Error) (d : During) : AgreeByPhase (raise e d s) (raise e d t) where
  shared := { h.shared with
    seq := rfl
    sstate := congrArg (errorState d) h.shared.sstate
    errlog := congrArg (logError · e) h.shared.errlog
    responses := congrArg (· ++ _) h.shared.responses }
  cmdreg hne := absurd rfl hne
  phase := trivial
  state := by
    cases d with
    | init => trivial
    | dispatch | force | fetch => exact h.state

end

/-! ### The relation and the bus -/

/-- The same outcome of a transaction from `s` and from `t`, with what it leaves. -/
inductive SameOutcome (s t : State) : BusResult × State → BusResult × State → Prop where
  | done (sent rx bytes : List Byte) : SameOutcome s t (.done bytes, afterDone s sent rx) (.done bytes, afterDone t sent rx)
  | failed (sent rx : List Byte) : SameOutcome s t (.failed, afterFailure s sent rx) (.failed, afterFailure t sent rx)
  | reset {u v : State} (h : AgreeByPhase (hardwareReset u) (hardwareReset v)) : SameOutcome s t (.reset, u) (.reset, v)
  | hung (sent rx : List Byte) : SameOutcome s t (.hung, afterHang s sent rx) (.hung, afterHang t sent rx)

section

variable {s t : State}

/-- What the bus answers depends on the script and the history, which are shared (spec/20_memory.md R58): an operation that runs one
transaction and makes `value` of the bytes received has the same outcome from both states. -/
theorem sameOutcome_of_bus (h : AgreeByPhase s t) {sent : List Byte} {run : State → BusResult × State} {value : List Byte → List Byte}
    (hdone : ∀ u rx, Delivers u sent rx → run u = (.done (value rx), afterDone u sent rx))
    (hfail : ∀ u rx, FailsAfter u sent rx → run u = (.failed, afterFailure u sent rx))
    (hreset : ∀ u rx stop, ResetAfter u sent rx stop → ∃ v, run u = (.reset, v) ∧ hardwareReset v = afterReset u sent rx stop)
    (hhang : ∀ u rx, HangsAfter u sent rx → run u = (.hung, afterHang u sent rx)) : SameOutcome s t (run s) (run t) := by
  have hanswers := h.shared.answers
  have hhist := h.shared.hist
  rcases bus_cases s sent with ⟨rx, hd, -⟩ | ⟨rx, hd⟩ | ⟨rx, stop, hd⟩ | ⟨rx, hd⟩
  · have hd' : Delivers t sent rx := by rwa [Delivers, ← hanswers, ← hhist]
    rw [hdone s rx hd, hdone t rx hd']
    exact .done ..
  · have hd' : FailsAfter t sent rx := by rwa [FailsAfter, ← hanswers, ← hhist]
    rw [hfail s rx hd, hfail t rx hd']
    exact .failed ..
  · have hd' : ResetAfter t sent rx stop := by rwa [ResetAfter, ← hanswers, ← hhist]
    obtain ⟨u, hu, hureset⟩ := hreset s rx stop hd
    obtain ⟨v, hv, hvreset⟩ := hreset t rx stop hd'
    rw [hu, hv]
    exact .reset (by rw [hureset, hvreset]; exact h.afterReset ..)
  · have hd' : HangsAfter t sent rx := by rwa [HangsAfter, ← hanswers, ← hhist]
    rw [hhang s rx hd, hhang t rx hd']
    exact .hung ..

theorem busRead_sameOutcome (h : AgreeByPhase s t) (a : BitVec 7) (n : Nat) : SameOutcome s t (busRead a n s) (busRead a n t) :=
  sameOutcome_of_bus h (value := List.tail) (fun _ _ hd => busRead_done (transact_of_delivers hd)) (fun _ _ => busRead_of_fails)
    (fun _ _ _ => busRead_of_resets) fun _ _ => busRead_of_hangs

theorem busWrite_sameOutcome (h : AgreeByPhase s t) (a : BitVec 7) (v : Byte) : SameOutcome s t (busWrite a v s) (busWrite a v t) :=
  sameOutcome_of_bus h (value := fun _ => []) (fun _ _ => busWrite_of_delivers) (fun _ _ => busWrite_of_fails)
    (fun _ _ _ => busWrite_of_resets) fun _ _ => busWrite_of_hangs

theorem runTransaction_sameOutcome (h : AgreeByPhase s t) (tr : Transaction) :
    SameOutcome s t (runTransaction tr s) (runTransaction tr t) := by
  cases tr with
  | read a more => exact busRead_sameOutcome h a (more + 1)
  | write a v => exact busWrite_sameOutcome h a v

/-- A bus phase keeps the relation if it does where its transaction is complete. -/
theorem AgreeByPhase.busPhase (h : AgreeByPhase s t) {p q : BusResult × State} (hsame : SameOutcome s t p q) (d : During)
    {commit : List Byte → State → State}
    (hc : ∀ sent rx bytes, AgreeByPhase (commit bytes (Safety.afterDone s sent rx)) (commit bytes (Safety.afterDone t sent rx))) :
    AgreeByPhase (busPhase d commit p) (busPhase d commit q) := by
  cases hsame with
  | done => exact hc ..
  | failed => exact (h.afterFailure ..).raise _ d
  | reset hr => exact hr
  | hung => exact h.afterHang ..

/-- A transaction run on its own writes no register of the engine (log 7). -/
theorem AgreeByPhase.deliver (h : AgreeByPhase s t) {p q : BusResult × State} (hsame : SameOutcome s t p q) :
    AgreeByPhase (deliver p) (deliver q) := by
  cases hsame with
  | done => exact (h.afterDone ..).withBusOut _
  | failed => exact (h.afterFailure ..).withBusOut _
  | reset hr => exact hr.withBusOut _
  | hung => exact (h.afterHang ..).withBusOut _

end

/-! ### The relation and dispatch (spec/41_measurement_controller.md R130) -/

/-- Both answer a next state, and the next states agree. -/
def StepAlike (o o' : Host.Outcome State Fault Refusal) : Prop := ∃ s t, o = .next s ∧ o' = .next t ∧ AgreeByPhase s t

theorem AgreeByPhase.next {s t : State} (h : AgreeByPhase s t) : StepAlike (.next s) (.next t) := ⟨s, t, rfl, rfl, h⟩

section

variable {s t : State}

theorem AgreeByPhase.calvalid_eq (h : AgreeByPhase s t) : s.calvalid = t.calvalid := by
  rw [State.calvalid, State.calvalid, h.shared.sstate]

/-- An accepted command latches its code and goes to a phase that reads nothing an earlier one wrote. -/
theorem AgreeByPhase.accept (h : AgreeByPhase s t) (c : BitVec 3) {p : Phase} (hp : p ∈ [.resetWr, .forceRd, .dataRd]) :
    AgreeByPhase { s with cmdreg := c, seq := p } { t with cmdreg := c, seq := p } :=
  ⟨{ h.shared with seq := rfl }, fun _ => rfl, by fin_cases hp <;> trivial, h.state⟩

/-- The controller goes to, or stays in, a state in which only the coefficients count. -/
theorem AgreeByPhase.calibrated (h : AgreeByPhase s t) (hcal : s.cal = t.cal) {x : SState} (hx : x = .idle ∨ x = .measuring) :
    AgreeByPhase { s with sstate := x } { t with sstate := x } :=
  ⟨{ h.shared with sstate := rfl }, h.cmdreg, h.phase, agreeIn_of_stale hx hcal⟩

theorem AgreeByPhase.acceptReserved (h : AgreeByPhase s t) (c : BitVec 3) : AgreeByPhase (acceptReserved c s) (acceptReserved c t) :=
  (h.withCmdreg c).raise ..

theorem AgreeByPhase.acceptInit (h : AgreeByPhase s t) : AgreeByPhase (acceptInit s) (acceptInit t) := by
  have hstate := h.shared.sstate
  by_cases hs : s.sstate = .reset
  · rw [acceptInit_of_reset hs, acceptInit_of_reset (hstate ▸ hs)]
    exact h.accept _ (by decide)
  · rw [acceptInit_of_ne_reset hs, acceptInit_of_ne_reset (hstate ▸ hs)]
    exact (h.withCmdreg _).raise ..

theorem AgreeByPhase.acceptForce (h : AgreeByPhase s t) : AgreeByPhase (acceptForce s) (acceptForce t) := by
  have heq := h.calvalid_eq
  cases hc : s.calvalid with
  | true =>
    rw [acceptForce_of_calvalid hc, acceptForce_of_calvalid (heq ▸ hc)]
    exact (h.calibrated (h.cal_of_calvalid hc) (.inl rfl)).accept _ (by decide)
  | false =>
    rw [acceptForce_of_not_calvalid hc, acceptForce_of_not_calvalid (heq ▸ hc)]
    exact (h.withCmdreg _).raise ..

/-- An accessor looks at its cached word in `DataReady` only. -/
theorem AgreeByPhase.acceptAccessor (h : AgreeByPhase s t) (c : BitVec 3) {out out' : Word} (ho : s.sstate = .dataReady → out = out') :
    AgreeByPhase (acceptAccessor c out s) (acceptAccessor c out' t) := by
  have hstate : s.sstate = .dataReady ∨ (s.sstate = .idle ∨ s.sstate = .measuring) ∨ (s.sstate = .reset ∨ s.sstate = .failed) := by
    cases s.sstate <;> decide
  have heq := h.shared.sstate
  rcases hstate with hs | hs | hs
  · rw [acceptAccessor_of_dataReady hs, acceptAccessor_of_dataReady (heq ▸ hs)]
    exact (h.withCmdreg c).respond .ok (ho hs)
  · rw [acceptAccessor_of_stale hs, acceptAccessor_of_stale (heq ▸ hs)]
    exact h.accept c (by decide)
  · rw [acceptAccessor_of_uncalibrated hs, acceptAccessor_of_uncalibrated (heq ▸ hs)]
    exact (h.withCmdreg c).raise ..

theorem AgreeByPhase.dispatch (h : AgreeByPhase s t) (c : BitVec 3) : StepAlike (dispatch c s) (dispatch c t) := by
  unfold Machine.dispatch
  split
  · exact (h.acceptReserved _).next
  · exact h.acceptInit.next
  · exact h.acceptForce.next
  · exact (h.acceptReserved _).next
  · exact (h.acceptAccessor _ fun hs => by obtain ⟨hoT, -⟩ := h.results_of_fresh hs; exact hoT).next
  · exact (h.acceptAccessor _ fun hs => by obtain ⟨-, hoP, -⟩ := h.results_of_fresh hs; exact hoP).next
  · exact (h.acceptAccessor _ fun hs => by obtain ⟨-, -, hoH⟩ := h.results_of_fresh hs; exact hoH).next
  · exact (h.acceptReserved _).next

theorem AgreeByPhase.seqIdle (h : AgreeByPhase s t) : StepAlike (exec .seqIdle s) (exec .seqIdle t) := by
  have hcmds := h.shared.cmds
  cases hc : s.cmds with
  | nil =>
    rw [exec_seqIdle_of_nil hc, exec_seqIdle_of_nil (hcmds ▸ hc)]
    exact h.next
  | cons c cs =>
    rw [exec_seqIdle_of_cons hc, exec_seqIdle_of_cons (hcmds ▸ hc)]
    exact (h.withCmds cs).dispatch c

/-! ### The relation and the phases -/

/-- `POLL_RD`: the count and the bound decide, and both agree (spec/41_measurement_controller.md R133). -/
theorem AgreeByPhase.pollTest (h : AgreeByPhase s t) (hq : s.seq = .pollRd) (b : Byte) : AgreeByPhase (pollTest b s) (pollTest b t) := by
  have hc := h.cmdreg_at hq
  have hcount : s.pollcnt = t.pollcnt := h.at_phase hq
  have hcfg := h.shared.cfg
  rcases pollTest_cases b s with ⟨hb, he⟩ | ⟨hb, hl, he⟩ | ⟨hb, ⟨limit, hl, hle⟩, he⟩ <;> rw [he]
  · rw [pollTest_of_ready hb]
    exact ⟨{ h.shared with seq := rfl }, fun _ => hc, trivial, h.state⟩
  · rw [pollTest_of_busy hb (by rwa [← hcfg, ← hcount])]
    exact ⟨{ h.shared with seq := rfl }, fun _ => hc, congrArg (· + 1) hcount, h.state⟩
  · rw [pollTest_of_bound hb (hcfg ▸ hl) (hcount ▸ hle)]
    have hnext : AgreeByPhase { s with pollcnt := s.pollcnt + 1 } { t with pollcnt := t.pollcnt + 1 } :=
      ⟨{ h.shared with }, h.cmdreg, hq ▸ congrArg (· + 1) hcount, h.state⟩
    exact hnext.raise ..

theorem AgreeByPhase.afterDelay (h : AgreeByPhase s t) (ms : Nat) (hung : Bool) :
    AgreeByPhase { s with hist := s.hist ++ [.delay ms], delays := s.delays.tail, hung := hung }
      { t with hist := t.hist ++ [.delay ms], delays := t.delays.tail, hung := hung } :=
  ⟨{ h.shared with hung := rfl, hist := congrArg (· ++ _) h.shared.hist, delays := congrArg List.tail h.shared.delays },
    h.cmdreg, h.phase, h.state⟩

/-- `POLL_WAIT` returns or hangs for both (spec/41_measurement_controller.md R134, R162). -/
theorem AgreeByPhase.pollWait (h : AgreeByPhase s t) (hq : s.seq = .pollWait) :
    StepAlike (exec .seqPollWait s) (exec .seqPollWait t) := by
  have hdelays := h.shared.delays
  cases hd : s.delays.headD true with
  | true =>
    rw [(pollWaitPhase s).1 hd, (pollWaitPhase t).1 (hdelays ▸ hd)]
    have hdelay := h.afterDelay 2 s.hung
    have hcount : s.pollcnt = t.pollcnt := h.at_phase hq
    exact AgreeByPhase.next ⟨{ hdelay.shared with seq := rfl, hung := h.shared.hung }, fun _ => h.cmdreg_at hq, hcount, h.state⟩
  | false =>
    rw [(pollWaitPhase s).2 hd, (pollWaitPhase t).2 (hdelays ▸ hd)]
    exact (h.afterDelay 2 true).next

section

variable {i : Instr} {a : BitVec 7} {d : During} {commit : List Byte → State → State}

/-- A phase that runs one read agrees if what it does with the bytes does. -/
theorem AgreeByPhase.read (h : AgreeByPhase s t) {n : Nat} (hi : exec i s = .next (Machine.busPhase d commit (busRead a n s)))
    (hi' : exec i t = .next (Machine.busPhase d commit (busRead a n t)))
    (hc : ∀ sent rx bytes, AgreeByPhase (commit bytes (Safety.afterDone s sent rx)) (commit bytes (Safety.afterDone t sent rx))) :
    StepAlike (exec i s) (exec i t) := by
  rw [hi, hi']; exact (h.busPhase (busRead_sameOutcome h a n) d hc).next

/-- A phase that runs one write agrees if what it does after it does. -/
theorem AgreeByPhase.write (h : AgreeByPhase s t) {v : Byte} (hi : exec i s = .next (Machine.busPhase d commit (busWrite a v s)))
    (hi' : exec i t = .next (Machine.busPhase d commit (busWrite a v t)))
    (hc : ∀ sent rx bytes, AgreeByPhase (commit bytes (Safety.afterDone s sent rx)) (commit bytes (Safety.afterDone t sent rx))) :
    StepAlike (exec i s) (exec i t) := by
  rw [hi, hi']; exact (h.busPhase (busWrite_sameOutcome h a v) d hc).next

end

theorem accessorData_congr (hc : s.cmdreg = t.cmdreg) (hT : s.outT = t.outT) (hP : s.outP = t.outP) (hH : s.outH = t.outH) :
    accessorData s = accessorData t := by
  rw [accessorData, accessorData, hc, hT, hP, hH]

/-- `COMP_T` (spec/41_measurement_controller.md R152). -/
theorem AgreeByPhase.compT (h : AgreeByPhase s t) (hq : s.seq = .compT) (hx : s.sstate = .idle ∨ s.sstate = .measuring) :
    StepAlike (exec .seqCompT s) (exec .seqCompT t) := by
  obtain ⟨hT, hP, hH⟩ := h.at_phase hq
  have hcal := h.cal_of_stale hx
  have hfine : compTfine s.rawT s.cal = compTfine t.rawT t.cal := by rw [hT, hcal]
  rw [exec_seqCompT, exec_seqCompT]
  exact AgreeByPhase.next ⟨{ h.shared with seq := rfl }, fun _ => h.cmdreg_at hq, ⟨hP, hH, hfine, congrArg compOutT hfine⟩,
    agreeIn_of_stale hx hcal⟩

/-- `COMP_P` (spec/41_measurement_controller.md R152). -/
theorem AgreeByPhase.compP (h : AgreeByPhase s t) (hq : s.seq = .compP) (hx : s.sstate = .idle ∨ s.sstate = .measuring) :
    StepAlike (exec .seqCompP s) (exec .seqCompP t) := by
  obtain ⟨hP, hH, hfine, hoT⟩ := h.at_phase hq
  have hcal := h.cal_of_stale hx
  have hoP : compOutP s.rawP s.tfine s.cal = compOutP t.rawP t.tfine t.cal := by rw [hP, hfine, hcal]
  rw [exec_seqCompP, exec_seqCompP]
  exact AgreeByPhase.next ⟨{ h.shared with seq := rfl }, fun _ => h.cmdreg_at hq, ⟨hH, hfine, hoT, hoP⟩, agreeIn_of_stale hx hcal⟩

/-- A fetch ends with its last result, whatever that is: all three hold a value then, and one of them is the answer
(spec/41_measurement_controller.md R152, R153). -/
theorem AgreeByPhase.endFetch (h : AgreeByPhase s t) (hq : s.seq = .compH) (hcal : s.cal = t.cal) (out : Word) :
    AgreeByPhase (Machine.respond .ok (accessorData { s with outH := out }) { s with outH := out, sstate := .dataReady })
      (Machine.respond .ok (accessorData { t with outH := out }) { t with outH := out, sstate := .dataReady }) := by
  obtain ⟨-, -, hoT, hoP⟩ := h.at_phase hq
  have hnext : AgreeByPhase { s with outH := out, sstate := .dataReady } { t with outH := out, sstate := .dataReady } :=
    ⟨{ h.shared with sstate := rfl }, h.cmdreg, h.phase, hcal, hoT, hoP, rfl⟩
  exact hnext.respond .ok (accessorData_congr (h.cmdreg_at hq) hoT hoP rfl)

/-- `COMP_H` (spec/41_measurement_controller.md R152). -/
theorem AgreeByPhase.compH (h : AgreeByPhase s t) (hq : s.seq = .compH) (hcal : s.cal = t.cal) :
    StepAlike (exec .seqCompH s) (exec .seqCompH t) := by
  obtain ⟨hH, hfine, -, -⟩ := h.at_phase hq
  have hoH : compOutH s.rawH s.tfine s.cal = compOutH t.rawH t.tfine t.cal := by rw [hH, hfine, hcal]
  rw [exec_seqCompH, exec_seqCompH, ← hoH]
  exact (h.endFetch hq hcal _).next

/-- Every phase that runs under its own command keeps the relation: what it reads holds a value, and what the next phase reads is what it
has just written or read. -/
theorem AgreeByPhase.exec_phase (h : AgreeByPhase s t) (ha : phaseAgrees s.seq s.sstate s.cmdreg) :
    StepAlike (exec (decodePhase s.seq.code) s) (exec (decodePhase t.seq.code) t) := by
  have hcfg := h.shared.cfg
  have hdone (sent rx : List Byte) := (h.afterDone sent rx).shared
  rw [← h.shared.seq]
  cases hq : s.seq with
  | idle => exact h.seqIdle
  | resetWr =>
    exact h.write rfl (by rw [hcfg]; rfl) fun _ _ _ => ⟨{ hdone .. with seq := rfl }, fun _ => h.cmdreg_at hq, rfl, h.state⟩
  | pollRd => exact h.read rfl (by rw [hcfg]; rfl) fun sent rx _ => (h.afterDone sent rx).pollTest hq _
  | pollWait => exact h.pollWait hq
  | cal1Rd | forceRd | dataRd =>
    exact h.read rfl (by rw [hcfg]; rfl) fun _ _ _ => ⟨{ hdone .. with seq := rfl }, fun _ => h.cmdreg_at hq, rfl, h.state⟩
  | cal2Rd =>
    have hbuf : s.calbuf1 = t.calbuf1 := h.at_phase hq
    exact h.read rfl (by rw [hcfg]; rfl) fun _ _ _ => ⟨{ hdone .. with seq := rfl }, fun _ => h.cmdreg_at hq, ⟨hbuf, rfl⟩, h.state⟩
  | calDecode =>
    obtain ⟨hs, -⟩ := hq ▸ ha
    obtain ⟨h1, h2⟩ := h.at_phase hq
    have hcal : decodeCal s.calbuf1 s.calbuf2 = decodeCal t.calbuf1 t.calbuf2 := by rw [h1, h2]
    exact AgreeByPhase.next ⟨{ h.shared with seq := rfl }, fun _ => h.cmdreg_at hq, hcal, by rw [hs]; trivial⟩
  | cfgHumWr =>
    have hcal : s.cal = t.cal := h.at_phase hq
    exact h.write rfl (by rw [hcfg]; rfl) fun _ _ _ => ⟨{ hdone .. with seq := rfl }, fun _ => h.cmdreg_at hq, hcal, h.state⟩
  | cfgMeasWr =>
    have hcal : s.cal = t.cal := h.at_phase hq
    exact h.write rfl (by rw [hcfg]; rfl) fun sent rx _ => ((h.afterDone sent rx).calibrated hcal (.inl rfl)).respond .ok rfl
  | forceWr =>
    obtain ⟨hs, -⟩ := hq ▸ ha
    have hmreg : s.mreg = t.mreg := h.at_phase hq
    have hcal := h.cal_of_stale (.inl hs)
    exact h.write rfl (by rw [hcfg, hmreg]; rfl) fun sent rx _ => ((h.afterDone sent rx).calibrated hcal (.inr rfl)).respond .ok rfl
  | rawDecode =>
    have hbuf : s.databuf = t.databuf := h.at_phase hq
    exact AgreeByPhase.next ⟨{ h.shared with seq := rfl }, fun _ => h.cmdreg_at hq, by simp only [AgreeAt, hbuf, and_self], h.state⟩
  | compT =>
    obtain ⟨hx, -⟩ := hq ▸ ha
    exact h.compT hq hx
  | compP =>
    obtain ⟨hx, -⟩ := hq ▸ ha
    exact h.compP hq hx
  | compH =>
    obtain ⟨hx, -⟩ := hq ▸ ha
    exact h.compH hq (h.cal_of_stale hx)

end

/-! ### The whole step -/

/-- `rst`, a hung call, a placed transaction or a phase: which it is depends on what is shared. -/
theorem step_alike {s t : State} (hok : s.cfg.ok = true) (h : AgreeByPhase s t) (ha : phaseAgrees s.seq s.sstate s.cmdreg) :
    StepAlike (step s) (step t) := by
  have hok' : t.cfg.ok = true := h.shared.cfg ▸ hok
  have hrst := h.shared.rst
  have hhung := h.shared.hung
  have hreq := h.shared.busReq
  cases hr : s.rst with
  | true =>
    rw [step_of_rst hok hr, step_of_rst hok' (hrst ▸ hr)]
    exact h.hardwareReset.next
  | false =>
    cases hh : s.hung with
    | true =>
      rw [step_of_hung hok hr hh, step_of_hung hok' (hrst ▸ hr) (hhung ▸ hh)]
      exact h.next
    | false =>
      cases hb : s.busReq with
      | some tr =>
        rw [step_of_busReq hok hr hh hb, step_of_busReq hok' (hrst ▸ hr) (hhung ▸ hh) (hreq ▸ hb),
          exec_decodeTransaction tr { s with busReq := none }, exec_decodeTransaction tr { t with busReq := none }]
        have hfree := h.withBusReq none
        exact (hfree.deliver (runTransaction_sameOutcome hfree tr)).next
      | none =>
        rw [step_of_runs ⟨hok, hr, hh, hb⟩, step_of_runs ⟨hok', hrst ▸ hr, hhung ▸ hh, hreq ▸ hb⟩]
        exact h.exec_phase ha

/-- Settles O53: a refused configuration is refused in both; in any other both steps answer, and alike. -/
theorem unwrittenRegistersHaveNoInfluence : Obligations.UnwrittenRegistersHaveNoInfluence := by
  intro s t h ha
  cases hok : s.cfg.ok with
  | false =>
    rw [step_of_not_ok hok, step_of_not_ok (h.cfg ▸ hok)]
    exact ⟨fun _ hn => (nomatch hn), fun _ hf => (nomatch hf), fun _ hr => hr⟩
  | true =>
    obtain ⟨s', t', hs, ht, h'⟩ := step_alike hok (agreeOnLive_iff.mp h) ha
    rw [hs, ht]
    refine ⟨fun u hu => ⟨t', rfl, ?_⟩, fun _ hf => (nomatch hf), fun _ hr => (nomatch hr)⟩
    cases hu
    exact agreeOnLive_iff.mpr h'

end Sys2Proof.Safety
